-- ==== Sys2Proof/Word.lean ====
section
/-!
DEFINITION. The word types of the block (spec 00_scope R5 R8).
General registers, float registers and data addresses are 64 bits; the addressable unit is the byte;
an instruction word is 32 bits.
-/

namespace Sys2Proof

/-- A 64-bit value: a general register, a float register, a data address, the program counter (R5). -/
abbrev Word := BitVec 64

/-- The addressable unit of the data memory (R5). -/
abbrev Byte := BitVec 8

/-- One instruction word (30_encoding R82). -/
abbrev Code := BitVec 32

/-- A piece of program text: the characters of one line, of a label, of a token. -/
abbrev Text := List Char

end Sys2Proof
end

