-- ==== Sys2Proof/Config.lean ====
section
/-!
DEFINITION. What the spec leaves as parameters (00_scope R6 R7; 92_eei_decisions, last table), with the
defaults it recommends. The step functions never use a default: they read the parameters from the state,
so a statement about every state holds for every choice (log 1).
-/

namespace Sys2Proof

/-- The data memory as plain data: the listed (address, byte) pairs; every address not listed reads as 0
(20_memory R40, log 3). -/
abbrev Memory := List Host.Cell

/-- The parameters that instructions consult while a program runs: the address map of R6 and the
predicate of condition LT of 46_branch R250. -/
structure Params where
  /-- `TEXT_BASE`, the source's "text-segment-offset". -/
  textBase : Word
  /-- `TEXT_LIMIT`, the end of the text segment that BR checks. -/
  textLimit : Word
  /-- `DYN_DATA_BASE`, the source's "dynamic-data-offset". -/
  dynDataBase : Word
  /-- `STACK_BASE`, the source's "stack-base": the first address past the data window. -/
  stackBase : Word
  /-- `condLT` as a truth table: bit `8N + 4Z + 2C + V` says whether LT holds (log 7). -/
  condLT : BitVec 16
deriving DecidableEq, Repr

/-- The truth table of the default `condLT = (N != V)` (R250): bits 1, 3, 5, 7, 8, 10, 12, 14. -/
def Config.condLTDefault : BitVec 16 := 0x55AA#16

/-- The recommended address map of R6 and the default `condLT` of R250 (log 1: PRESUMED by the spec from
general knowledge of LEGv8 layouts, unsafe as numbers; no definition of the model but `Launch.default`
uses them). -/
def Config.paramsDefault : Params where
  textBase := 0x0000000000400000#64
  textLimit := 0x0000000010000000#64
  dynDataBase := 0x0000000010000000#64
  stackBase := 0x0000007FFFFFFFF0#64
  condLT := Config.condLTDefault

/-- All that a launch of a program chooses beside the program: the parameters, the reset values of the
register files and the initial data image (00_scope R7, 10_state R31, 20_memory R44). -/
structure Launch where
  params : Params
  /-- `SP_RESET`, the reset value of register 28. -/
  spReset : Word
  /-- `XRESET[i]`; the entries 28 and 31 are not used (R31). -/
  xReset : Vector Word 32
  /-- `DRESET[i]`. -/
  dReset : Vector Word 32
  /-- `MEM_INIT`: the listed bytes; every address not listed starts as 0 (20_memory R44). -/
  memInit : Memory
deriving DecidableEq, Repr

/-- The defaults of 10_state R31 and 20_memory R44: `SP_RESET = STACK_BASE`, all else zero (log 2, log 3). -/
def Launch.default : Launch where
  params := Config.paramsDefault
  spReset := Config.paramsDefault.stackBase
  xReset := Vector.replicate 32 0#64
  dReset := Vector.replicate 32 0#64
  memInit := []

end Sys2Proof
end

