-- ==== Sys2Proof/Syntax.lean ====
section
/-!
DEFINITION. The instruction set as the spec gives it at its normative level, the decoded record
(30_encoding R70 R72 R76 R77): register operands are indices, immediates are integers, label operands are
absolute instruction indices. One constructor of `Instr` per row of `opcode_table.json`.
-/

namespace Sys2Proof

/-- A general register's index, 0 to 31 (10_state R11 R13). -/
abbrev Reg := Fin 32

/-- A float register's index, 0 to 31 (10_state R15). -/
abbrev FReg := Fin 32

/-- Register 31, hard-wired zero (10_state R12 R13). -/
abbrev XZR : Reg := 31

/-- Register 28, the stack pointer (10_state R13). -/
abbrev SP : Reg := 28

/-- Register 29 (10_state R13). -/
abbrev FP : Reg := 29

/-- Register 30, which BL writes (10_state R13, 46_branch R233). -/
abbrev LR : Reg := 30

/-- Register 16 (10_state R13; the index is the spec's, from general knowledge, log 36). -/
abbrev IP0 : Reg := 16

/-- Register 17 (10_state R13; the index is the spec's, from general knowledge, log 36). -/
abbrev IP1 : Reg := 17

/-- The fourteen conditions of B.cond (46_branch R243 to R256). -/
inductive Cond where
  | eq | ne | hs | lo | hi | ls | ge | lt | gt | le | mi | pl | vs | vc
deriving DecidableEq, Repr

/-- The 51 admitted instruction names (30_encoding R72). -/
inductive Mnemonic where
  | add | adds | addi | addis | sub | subs | subi | subis
  | and | ands | andi | andis | orr | orri | eor | eori
  | lsl | lsr | movz | movk
  | ldur | ldursw | ldurh | ldurb | stur | sturw | sturh | sturb
  | ldxr | stxr
  | b | bl | br | cbz | cbnz
  | bEq | bNe | bHs | bLo | bHi | bLs | bGe | bLt | bGt | bLe | bMi | bPl | bVs | bVc
  | fcmps | fcmpd
deriving DecidableEq, Repr

/-- The admitted instructions with their arguments in the layout of 30_encoding R77. A label operand is the
absolute index `target` of the instruction the label stands for; `off` is a signed byte offset; `q` is the
shift of a wide move; in `stxr` the operands are the stored register, the status register, the base. -/
inductive Instr where
  /-- `ADD Xd, Xn, Xm` (41_arith R150) -/
  | add (d n m : Reg)
  /-- `ADDS Xd, Xn, Xm` (41_arith R151) -/
  | adds (d n m : Reg)
  /-- `ADDI Xd, Xn, #imm` (41_arith R152) -/
  | addi (d n : Reg) (imm : Nat)
  /-- `ADDIS Xd, Xn, #imm` (41_arith R153) -/
  | addis (d n : Reg) (imm : Nat)
  /-- `SUB Xd, Xn, Xm` (41_arith R154) -/
  | sub (d n m : Reg)
  /-- `SUBS Xd, Xn, Xm` (41_arith R155) -/
  | subs (d n m : Reg)
  /-- `SUBI Xd, Xn, #imm` (41_arith R156) -/
  | subi (d n : Reg) (imm : Nat)
  /-- `SUBIS Xd, Xn, #imm` (41_arith R157) -/
  | subis (d n : Reg) (imm : Nat)
  /-- `AND Xd, Xn, Xm` (42_logical R170) -/
  | and (d n m : Reg)
  /-- `ANDS Xd, Xn, Xm` (42_logical R171) -/
  | ands (d n m : Reg)
  /-- `ANDI Xd, Xn, #imm` (42_logical R172) -/
  | andi (d n : Reg) (imm : Nat)
  /-- `ANDIS Xd, Xn, #imm` (42_logical R173) -/
  | andis (d n : Reg) (imm : Nat)
  /-- `ORR Xd, Xn, Xm` (42_logical R174) -/
  | orr (d n m : Reg)
  /-- `ORRI Xd, Xn, #imm` (42_logical R175) -/
  | orri (d n : Reg) (imm : Nat)
  /-- `EOR Xd, Xn, Xm` (42_logical R176) -/
  | eor (d n m : Reg)
  /-- `EORI Xd, Xn, #imm` (42_logical R177) -/
  | eori (d n : Reg) (imm : Nat)
  /-- `LSL Xd, Xn, #sh` (43_shift_wide R190) -/
  | lsl (d n : Reg) (sh : Nat)
  /-- `LSR Xd, Xn, #sh` (43_shift_wide R191) -/
  | lsr (d n : Reg) (sh : Nat)
  /-- `MOVZ Xd, #imm, LSL #q` (43_shift_wide R192) -/
  | movz (d : Reg) (imm q : Nat)
  /-- `MOVK Xd, #imm, LSL #q` (43_shift_wide R193) -/
  | movk (d : Reg) (imm q : Nat)
  /-- `LDUR Xt, [Xn, #off]` (44_load_store R204) -/
  | ldur (t n : Reg) (off : Int)
  /-- `LDURSW Xt, [Xn, #off]` (44_load_store R205) -/
  | ldursw (t n : Reg) (off : Int)
  /-- `LDURH Xt, [Xn, #off]` (44_load_store R206) -/
  | ldurh (t n : Reg) (off : Int)
  /-- `LDURB Xt, [Xn, #off]` (44_load_store R207) -/
  | ldurb (t n : Reg) (off : Int)
  /-- `STUR Xt, [Xn, #off]` (44_load_store R208) -/
  | stur (t n : Reg) (off : Int)
  /-- `STURW Xt, [Xn, #off]` (44_load_store R209) -/
  | sturw (t n : Reg) (off : Int)
  /-- `STURH Xt, [Xn, #off]` (44_load_store R210) -/
  | sturh (t n : Reg) (off : Int)
  /-- `STURB Xt, [Xn, #off]` (44_load_store R211) -/
  | sturb (t n : Reg) (off : Int)
  /-- `LDXR Xt, [Xn, #0]` (45_exclusive R221) -/
  | ldxr (t n : Reg)
  /-- `STXR Xt, Xs, [Xn, #0]` (45_exclusive R222) -/
  | stxr (t st n : Reg)
  /-- `B label` (46_branch R231) -/
  | b (target : Nat)
  /-- `BL label` (46_branch R233) -/
  | bl (target : Nat)
  /-- `BR Xn` (46_branch R234) -/
  | br (n : Reg)
  /-- `CBZ Xt, label` (46_branch R235) -/
  | cbz (t : Reg) (target : Nat)
  /-- `CBNZ Xt, label` (46_branch R237) -/
  | cbnz (t : Reg) (target : Nat)
  /-- `B.EQ label` (46_branch R243) -/
  | bEq (target : Nat)
  /-- `B.NE label` (46_branch R244) -/
  | bNe (target : Nat)
  /-- `B.HS label` (46_branch R245) -/
  | bHs (target : Nat)
  /-- `B.LO label` (46_branch R246) -/
  | bLo (target : Nat)
  /-- `B.HI label` (46_branch R247) -/
  | bHi (target : Nat)
  /-- `B.LS label` (46_branch R248) -/
  | bLs (target : Nat)
  /-- `B.GE label` (46_branch R249) -/
  | bGe (target : Nat)
  /-- `B.LT label` (46_branch R250) -/
  | bLt (target : Nat)
  /-- `B.GT label` (46_branch R251) -/
  | bGt (target : Nat)
  /-- `B.LE label` (46_branch R252) -/
  | bLe (target : Nat)
  /-- `B.MI label` (46_branch R253) -/
  | bMi (target : Nat)
  /-- `B.PL label` (46_branch R254) -/
  | bPl (target : Nat)
  /-- `B.VS label` (46_branch R255) -/
  | bVs (target : Nat)
  /-- `B.VC label` (46_branch R256) -/
  | bVc (target : Nat)
  /-- `FCMPS Sn, Sm` (47_fp_compare R262) -/
  | fcmps (n m : FReg)
  /-- `FCMPD Dn, Dm` (47_fp_compare R263) -/
  | fcmpd (n m : FReg)
deriving DecidableEq, Repr

/-- A control signal: asserted, not asserted, or "not applicable", which is distinct from both (30_encoding R110). -/
inductive Signal where
  | off | on | na
deriving DecidableEq, Repr

/-- The `ALUOp` signal: a value 0 to 3, or "not applicable" (30_encoding R110 R111). -/
inductive ALUOp where
  | op0 | op1 | op2 | op3 | na
deriving DecidableEq, Repr

/-- `ControlUnitConfiguration`, the hardware control word of one instruction class (30_encoding R110). -/
structure ControlWord where
  reg2Loc : Signal
  uncondBranch : Signal
  flagBranch : Signal
  zeroBranch : Signal
  memRead : Signal
  memToReg : Signal
  memWrite : Signal
  flagWrite : Signal
  aluSrc : Signal
  aluOp : ALUOp
  regWrite : Signal
deriving DecidableEq, Repr

/-- The decoded `Instruction` record (30_encoding R76): the instruction with its arguments, the source line
number, and the control word bound to it at decode time. -/
structure Record where
  instr : Instr
  line : Nat
  ctrl : ControlWord
deriving DecidableEq, Repr

/-- A compiled program: the instruction list and the branch table (10_state R24, 30_encoding R80). -/
structure Program where
  /-- `prog[0 .. N-1]`. -/
  records : List Record
  /-- The label-to-index map. -/
  branchTable : List (Text × Nat)
deriving DecidableEq, Repr

/-- The program of `N = 0` instructions. -/
def Program.empty : Program where
  records := []
  branchTable := []

end Sys2Proof
end

