-- ==== Sys2Proof/WellFormed.lean ====
section
/-!
DEFINITION. Which instructions, images and launches are legal: the ranges of 30_encoding R77 R79 R80 R90, the
canonical form of a memory, and the constraints of 00_scope R6. Everything here is decidable.
-/

namespace Sys2Proof

/-- The permitted values of an immediate, as an error echoes them (30_encoding R79 R101). -/
inductive Permitted where
  /-- every integer from `lo` to `hi` -/
  | range (lo hi : Int)
  /-- exactly the listed integers -/
  | oneOf (values : List Int)
deriving DecidableEq, Repr

/-- Whether `v` is permitted. -/
def Permitted.allows : Permitted → Int → Bool
  | .range lo hi, v => decide (lo ≤ v) && decide (v ≤ hi)
  | .oneOf vs, v => vs.contains v

/-- "arithmetic/logical [0,4095]" (R79). -/
def permittedImm12 : Permitted := .range 0 4095

/-- "offset [-256,255]" (R79). -/
def permittedOffset : Permitted := .range (-256) 255

/-- "shift [0,63]" (R79). -/
def permittedShift : Permitted := .range 0 63

/-- "wide [0,65535]" (R79). -/
def permittedWide : Permitted := .range 0 65535

/-- "quadrant-shift ∈ {0,16,32,48}" (R79). -/
def permittedQuadrant : Permitted := .oneOf [0, 16, 32, 48]

/-- "exclusive-access immediate fixed at 0" (R79). -/
def permittedExclusive : Permitted := .oneOf [0]

/-- The immediates of an instruction lie in the ranges of R79. -/
def Instr.immediatesOk : Instr → Bool
  | .addi _ _ imm | .addis _ _ imm | .subi _ _ imm | .subis _ _ imm
  | .andi _ _ imm | .andis _ _ imm | .orri _ _ imm | .eori _ _ imm => permittedImm12.allows imm
  | .lsl _ _ sh | .lsr _ _ sh => permittedShift.allows sh
  | .movz _ imm q | .movk _ imm q => permittedWide.allows imm && permittedQuadrant.allows q
  | .ldur _ _ off | .ldursw _ _ off | .ldurh _ _ off | .ldurb _ _ off
  | .stur _ _ off | .sturw _ _ off | .sturh _ _ off | .sturb _ _ off => permittedOffset.allows off
  | .add .. | .adds .. | .sub .. | .subs .. | .and .. | .ands .. | .orr .. | .eor .. => true
  | .ldxr .. | .stxr .. | .b _ | .bl _ | .br _ | .cbz .. | .cbnz .. | .fcmps .. | .fcmpd .. => true
  | .bEq _ | .bNe _ | .bHs _ | .bLo _ | .bHi _ | .bLs _ | .bGe _ | .bLt _ | .bGt _ | .bLe _
  | .bMi _ | .bPl _ | .bVs _ | .bVc _ => true

/-- The label operand of a branch, as an absolute instruction index (R77 R80). -/
def Instr.target? : Instr → Option Nat
  | .b t | .bl t | .cbz _ t | .cbnz _ t => some t
  | .bEq t | .bNe t | .bHs t | .bLo t | .bHi t | .bLs t | .bGe t | .bLt t | .bGt t | .bLe t
  | .bMi t | .bPl t | .bVs t | .bVc t => some t
  | .add .. | .adds .. | .addi .. | .addis .. | .sub .. | .subs .. | .subi .. | .subis .. => none
  | .and .. | .ands .. | .andi .. | .andis .. | .orr .. | .orri .. | .eor .. | .eori .. => none
  | .lsl .. | .lsr .. | .movz .. | .movk .. | .br _ | .fcmps .. | .fcmpd .. => none
  | .ldur .. | .ldursw .. | .ldurh .. | .ldurb .. | .stur .. | .sturw .. | .sturh .. | .sturb .. => none
  | .ldxr .. | .stxr .. => none

/-- A label stands for an instruction of the program: `0 <= target < N` (R77). -/
def Instr.targetOk (N : Nat) (i : Instr) : Bool :=
  match i.target? with
  | some t => decide (t < N)
  | none => true

/-- A well-formed instruction of a program of `N` instructions (R77 R79 R80). -/
def Instr.wf (N : Nat) (i : Instr) : Bool := i.immediatesOk && i.targetOk N

/-- How many bits the word encoding gives the distance of a branch (R90): 26 for B and BL, 19 for CBZ, CBNZ
and B.cond; an instruction with no label operand has none. -/
def Instr.displacementBits : Instr → Nat
  | .b _ | .bl _ => 26
  | .cbz .. | .cbnz .. => 19
  | .bEq _ | .bNe _ | .bHs _ | .bLo _ | .bHi _ | .bLs _ | .bGe _ | .bLt _ | .bGt _ | .bLe _
  | .bMi _ | .bPl _ | .bVs _ | .bVc _ => 19
  | .add .. | .adds .. | .addi .. | .addis .. | .sub .. | .subs .. | .subi .. | .subis .. => 0
  | .and .. | .ands .. | .andi .. | .andis .. | .orr .. | .orri .. | .eor .. | .eori .. => 0
  | .lsl .. | .lsr .. | .movz .. | .movk .. | .br _ | .fcmps .. | .fcmpd .. => 0
  | .ldur .. | .ldursw .. | .ldurh .. | .ldurb .. | .stur .. | .sturw .. | .sturh .. | .sturb .. => 0
  | .ldxr .. | .stxr .. => 0

/-- The distance from the branch at index `own` to its target fits the word encoding (R90). -/
def Instr.reachable (own : Nat) (i : Instr) : Bool :=
  match i.target? with
  | some t =>
    decide (-(2 ^ (i.displacementBits - 1) : Int) ≤ (t : Int) - own)
      && decide ((t : Int) - own < (2 ^ (i.displacementBits - 1) : Int))
  | none => true

/-- The instruction at index `own` exists at the word level: its immediates are in range and its branch
distance can be encoded (R90; a branch that is too far exists at the record level only). -/
def Instr.encodable (own : Nat) (i : Instr) : Bool := i.immediatesOk && i.reachable own

/-- The canonical form from address `lo` on: addresses rise strictly, lie in the 64-bit space, and no
listed byte is the 0 that an unlisted address reads as. -/
def Memory.wfFrom : Nat → Memory → Bool
  | _, [] => true
  | lo, (a, v) :: m => decide (lo ≤ a) && decide (a < 2 ^ 64) && decide (v ≠ 0#8) && Memory.wfFrom (a + 1) m

/-- The canonical form of a memory: equal memories are equal lists. -/
def Memory.wf (m : Memory) : Bool := Memory.wfFrom 0 m

/-- The constraints of 00_scope R6 on the address map, for a program of `N` instructions. -/
def Params.legal (p : Params) (N : Nat) : Bool :=
  decide (p.textBase.toNat % 4 = 0)
    && decide (p.textBase.toNat + 4 * N ≤ p.textLimit.toNat)
    && decide (p.textBase.toNat < p.textLimit.toNat)
    && decide (p.textLimit.toNat < 2 ^ 63)
    && decide (p.dynDataBase.toNat < p.stackBase.toNat)
    && decide (p.stackBase.toNat ≤ 2 ^ 63)

/-- A legal launch of a program of `N` instructions: a legal address map, `SP_RESET` a multiple of 16 (with
`SP_RESET = STACK_BASE` this is the constraint R6 puts on `STACK_BASE`), and an initial image in
canonical form (00_scope R6, 70_reset R302; 93 U23). -/
def Launch.legal (l : Launch) (N : Nat) : Bool :=
  l.params.legal N && decide (l.spReset.toNat % 16 = 0) && Memory.wf l.memInit

end Sys2Proof
end

