-- ==== Sys2Proof/Decode.lean ====
section
/-!
DEFINITION. The decoder from 32-bit words to decoded instructions, the encoder, the control words and the names
of the instructions (30_encoding R76, R82 to R93, R110 to R112). The word level is the spec's own decision
D1 D29 from general knowledge of LEGv8 (log 10): no meaning depends on it.
-/

namespace Sys2Proof

/-- The mnemonic field of a decoded instruction (30_encoding R76). -/
def Instr.mnemonic : Instr → Mnemonic
  | .add _ _ _ => .add
  | .adds _ _ _ => .adds
  | .addi _ _ _ => .addi
  | .addis _ _ _ => .addis
  | .sub _ _ _ => .sub
  | .subs _ _ _ => .subs
  | .subi _ _ _ => .subi
  | .subis _ _ _ => .subis
  | .and _ _ _ => .and
  | .ands _ _ _ => .ands
  | .andi _ _ _ => .andi
  | .andis _ _ _ => .andis
  | .orr _ _ _ => .orr
  | .orri _ _ _ => .orri
  | .eor _ _ _ => .eor
  | .eori _ _ _ => .eori
  | .lsl _ _ _ => .lsl
  | .lsr _ _ _ => .lsr
  | .movz _ _ _ => .movz
  | .movk _ _ _ => .movk
  | .ldur _ _ _ => .ldur
  | .ldursw _ _ _ => .ldursw
  | .ldurh _ _ _ => .ldurh
  | .ldurb _ _ _ => .ldurb
  | .stur _ _ _ => .stur
  | .sturw _ _ _ => .sturw
  | .sturh _ _ _ => .sturh
  | .sturb _ _ _ => .sturb
  | .ldxr _ _ => .ldxr
  | .stxr _ _ _ => .stxr
  | .b _ => .b
  | .bl _ => .bl
  | .br _ => .br
  | .cbz _ _ => .cbz
  | .cbnz _ _ => .cbnz
  | .bEq _ => .bEq
  | .bNe _ => .bNe
  | .bHs _ => .bHs
  | .bLo _ => .bLo
  | .bHi _ => .bHi
  | .bLs _ => .bLs
  | .bGe _ => .bGe
  | .bLt _ => .bLt
  | .bGt _ => .bGt
  | .bLe _ => .bLe
  | .bMi _ => .bMi
  | .bPl _ => .bPl
  | .bVs _ => .bVs
  | .bVc _ => .bVc
  | .fcmps _ _ => .fcmps
  | .fcmpd _ _ => .fcmpd

/-- The `args` list of the record (30_encoding R77). -/
def Instr.args : Instr → List Int
  | .add d n m | .adds d n m | .sub d n m | .subs d n m | .and d n m | .ands d n m | .orr d n m | .eor d n m => [d.val, n.val, m.val]
  | .addi d n imm | .addis d n imm | .subi d n imm | .subis d n imm | .andi d n imm | .andis d n imm | .orri d n imm | .eori d n imm => [d.val, n.val, imm]
  | .lsl d n sh | .lsr d n sh => [d.val, n.val, sh]
  | .movz d imm q | .movk d imm q => [d.val, imm, q]
  | .ldur t n off | .ldursw t n off | .ldurh t n off | .ldurb t n off | .stur t n off | .sturw t n off | .sturh t n off | .sturb t n off => [t.val, n.val, off]
  | .ldxr t n => [t.val, n.val, 0]
  | .stxr t st n => [t.val, st.val, n.val, 0]
  | .b target | .bl target => [target]
  | .br n => [n.val]
  | .cbz t target | .cbnz t target => [t.val, target]
  | .bEq target | .bNe target | .bHs target | .bLo target | .bHi target | .bLs target | .bGe target
  | .bLt target | .bGt target | .bLe target | .bMi target | .bPl target | .bVs target | .bVc target => [target]
  | .fcmps n m | .fcmpd n m => [n.val, m.val]

/-- The upper-case spelling of each mnemonic (30_encoding R72 R74). -/
def Mnemonic.spelling : Mnemonic → String
  | .add => "ADD"
  | .adds => "ADDS"
  | .addi => "ADDI"
  | .addis => "ADDIS"
  | .sub => "SUB"
  | .subs => "SUBS"
  | .subi => "SUBI"
  | .subis => "SUBIS"
  | .and => "AND"
  | .ands => "ANDS"
  | .andi => "ANDI"
  | .andis => "ANDIS"
  | .orr => "ORR"
  | .orri => "ORRI"
  | .eor => "EOR"
  | .eori => "EORI"
  | .lsl => "LSL"
  | .lsr => "LSR"
  | .movz => "MOVZ"
  | .movk => "MOVK"
  | .ldur => "LDUR"
  | .ldursw => "LDURSW"
  | .ldurh => "LDURH"
  | .ldurb => "LDURB"
  | .stur => "STUR"
  | .sturw => "STURW"
  | .sturh => "STURH"
  | .sturb => "STURB"
  | .ldxr => "LDXR"
  | .stxr => "STXR"
  | .b => "B"
  | .bl => "BL"
  | .br => "BR"
  | .cbz => "CBZ"
  | .cbnz => "CBNZ"
  | .bEq => "B.EQ"
  | .bNe => "B.NE"
  | .bHs => "B.HS"
  | .bLo => "B.LO"
  | .bHi => "B.HI"
  | .bLs => "B.LS"
  | .bGe => "B.GE"
  | .bLt => "B.LT"
  | .bGt => "B.GT"
  | .bLe => "B.LE"
  | .bMi => "B.MI"
  | .bPl => "B.PL"
  | .bVs => "B.VS"
  | .bVc => "B.VC"
  | .fcmps => "FCMPS"
  | .fcmpd => "FCMPD"

/-- The arithmetic (41_arith R150 to R157) mnemonics of 30_encoding R72. -/
def mnemonicsArith : List Mnemonic :=
  [.add, .adds, .addi, .addis, .sub, .subs, .subi, .subis]

/-- The logical (42_logical R170 to R177) mnemonics of 30_encoding R72. -/
def mnemonicsLogical : List Mnemonic :=
  [.and, .ands, .andi, .andis, .orr, .orri, .eor, .eori]

/-- The shift and wide-move (43_shift_wide R190 to R193) mnemonics of 30_encoding R72. -/
def mnemonicsShiftWide : List Mnemonic :=
  [.lsl, .lsr, .movz, .movk]

/-- The load and store (44_load_store R204 to R211) mnemonics of 30_encoding R72. -/
def mnemonicsLoadStore : List Mnemonic :=
  [.ldur, .ldursw, .ldurh, .ldurb, .stur, .sturw, .sturh, .sturb]

/-- The exclusive (45_exclusive R221 R222) mnemonics of 30_encoding R72. -/
def mnemonicsExclusive : List Mnemonic :=
  [.ldxr, .stxr]

/-- The unconditional and compare-and-branch (46_branch R231 to R237) mnemonics of 30_encoding R72. -/
def mnemonicsBranch : List Mnemonic :=
  [.b, .bl, .br, .cbz, .cbnz]

/-- The mnemonics of the fourteen B.cond (46_branch R236 R243 to R256). -/
def mnemonicsCondBranch : List Mnemonic :=
  [.bEq, .bNe, .bHs, .bLo, .bHi, .bLs, .bGe, .bLt, .bGt, .bLe, .bMi, .bPl, .bVs, .bVc]

/-- The float compare (47_fp_compare R262 R263) mnemonics of 30_encoding R72. -/
def mnemonicsFloatCompare : List Mnemonic :=
  [.fcmps, .fcmpd]

/-- The 51 mnemonics, family by family. -/
def allMnemonics : List Mnemonic :=
  mnemonicsArith ++ mnemonicsLogical ++ mnemonicsShiftWide ++ mnemonicsLoadStore
    ++ mnemonicsExclusive ++ mnemonicsBranch ++ mnemonicsCondBranch ++ mnemonicsFloatCompare

/-- The control word bound to each instruction, by the classes of 30_encoding R112 (log 24: the columns Reg2Loc,
MemToReg, ALUSrc, ALUOp are the spec's choice; nothing executable reads them). -/
def controlOf (m : Mnemonic) : ControlWord :=
  match m with
  -- class R
  | .add | .sub | .and | .orr | .eor => ⟨.off, .off, .off, .off, .off, .off, .off, .off, .off, .op2, .on⟩
  -- class RS
  | .adds | .subs | .ands => ⟨.off, .off, .off, .off, .off, .off, .off, .on, .off, .op2, .on⟩
  -- class I
  | .addi | .subi | .andi | .orri | .eori => ⟨.na, .off, .off, .off, .off, .off, .off, .off, .on, .op2, .on⟩
  -- class IS
  | .addis | .subis | .andis => ⟨.na, .off, .off, .off, .off, .off, .off, .on, .on, .op2, .on⟩
  -- class SH
  | .lsl | .lsr => ⟨.na, .off, .off, .off, .off, .off, .off, .off, .on, .op2, .on⟩
  -- class MZ
  | .movz => ⟨.na, .off, .off, .off, .off, .off, .off, .off, .on, .op2, .on⟩
  -- class MK
  | .movk => ⟨.on, .off, .off, .off, .off, .off, .off, .off, .on, .op2, .on⟩
  -- class LD
  | .ldur | .ldursw | .ldurh | .ldurb | .ldxr => ⟨.na, .off, .off, .off, .on, .on, .off, .off, .on, .op0, .on⟩
  -- class ST
  | .stur | .sturw | .sturh | .sturb => ⟨.on, .off, .off, .off, .off, .na, .on, .off, .on, .op0, .off⟩
  -- class SX
  | .stxr => ⟨.on, .off, .off, .off, .off, .off, .on, .off, .on, .op0, .on⟩
  -- class CB
  | .cbz | .cbnz => ⟨.on, .off, .off, .on, .off, .na, .off, .off, .off, .op1, .off⟩
  -- class BC
  | .bEq | .bNe | .bHs | .bLo | .bHi | .bLs | .bGe | .bLt | .bGt | .bLe | .bMi | .bPl | .bVs | .bVc => ⟨.na, .off, .on, .off, .off, .na, .off, .off, .na, .na, .off⟩
  -- class B
  | .b => ⟨.na, .on, .off, .off, .off, .na, .off, .off, .na, .na, .off⟩
  -- class BL
  | .bl => ⟨.na, .on, .off, .off, .off, .off, .off, .off, .na, .na, .on⟩
  -- class BR
  | .br => ⟨.na, .on, .off, .off, .off, .na, .off, .off, .na, .na, .off⟩
  -- class FC
  | .fcmps | .fcmpd => ⟨.off, .off, .off, .off, .off, .na, .off, .on, .off, .op2, .off⟩

/-- The record the decoder binds: an instruction, its source line and its control word (30_encoding R76 R110). -/
def Record.bind (i : Instr) (line : Nat) : Record where
  instr := i
  line := line
  ctrl := controlOf i.mnemonic

/-- A well-formed record of a program of `N` instructions: a well-formed instruction that carries the control
word bound at decode time (30_encoding R76 to R80, R110). -/
def Record.wf (N : Nat) (r : Record) : Bool := r.instr.wf N && decide (r.ctrl = controlOf r.instr.mnemonic)

/-- A program that passed the compile gate (30_encoding R102). -/
def Program.wf (p : Program) : Bool := p.records.all (Record.wf p.records.length)

/-! ## The opcode table -/

/-- One row of `opcode_table.json`: a word is this instruction exactly when its masked bits are the pattern. -/
structure OpcodeRow where
  mnemonic : Mnemonic
  pattern : Code
  mask : Code
deriving DecidableEq, Repr

/-- The word matches the row (30_encoding R92 R93). -/
def OpcodeRow.admits (r : OpcodeRow) (w : Code) : Bool := decide (w &&& r.mask = r.pattern)

/-- The rows of format R (R83). -/
def opcodeRowsR : List OpcodeRow :=
  [ ⟨.add, 0x8B000000#32, 0xFFE0FC00#32⟩
  , ⟨.adds, 0xAB000000#32, 0xFFE0FC00#32⟩
  , ⟨.sub, 0xCB000000#32, 0xFFE0FC00#32⟩
  , ⟨.subs, 0xEB000000#32, 0xFFE0FC00#32⟩
  , ⟨.and, 0x8A000000#32, 0xFFE0FC00#32⟩
  , ⟨.ands, 0xEA000000#32, 0xFFE0FC00#32⟩
  , ⟨.orr, 0xAA000000#32, 0xFFE0FC00#32⟩
  , ⟨.eor, 0xCA000000#32, 0xFFE0FC00#32⟩
  , ⟨.lsl, 0xD3600000#32, 0xFFFF0000#32⟩
  , ⟨.lsr, 0xD3400000#32, 0xFFFF0000#32⟩
  , ⟨.br, 0xD6000000#32, 0xFFFFFC1F#32⟩
  , ⟨.fcmps, 0x1E202000#32, 0xFFE0FC1F#32⟩
  , ⟨.fcmpd, 0x1E602000#32, 0xFFE0FC1F#32⟩ ]

/-- The rows of format I (R84). -/
def opcodeRowsI : List OpcodeRow :=
  [ ⟨.addi, 0x91000000#32, 0xFFC00000#32⟩
  , ⟨.addis, 0xB1000000#32, 0xFFC00000#32⟩
  , ⟨.subi, 0xD1000000#32, 0xFFC00000#32⟩
  , ⟨.subis, 0xF1000000#32, 0xFFC00000#32⟩
  , ⟨.andi, 0x92000000#32, 0xFFC00000#32⟩
  , ⟨.andis, 0xF2000000#32, 0xFFC00000#32⟩
  , ⟨.orri, 0xB2000000#32, 0xFFC00000#32⟩
  , ⟨.eori, 0xD2000000#32, 0xFFC00000#32⟩ ]

/-- The rows of format D (R85). -/
def opcodeRowsD : List OpcodeRow :=
  [ ⟨.ldur, 0xF8400000#32, 0xFFE00C00#32⟩
  , ⟨.ldursw, 0xB8800000#32, 0xFFE00C00#32⟩
  , ⟨.ldurh, 0x78400000#32, 0xFFE00C00#32⟩
  , ⟨.ldurb, 0x38400000#32, 0xFFE00C00#32⟩
  , ⟨.stur, 0xF8000000#32, 0xFFE00C00#32⟩
  , ⟨.sturw, 0xB8000000#32, 0xFFE00C00#32⟩
  , ⟨.sturh, 0x78000000#32, 0xFFE00C00#32⟩
  , ⟨.sturb, 0x38000000#32, 0xFFE00C00#32⟩
  , ⟨.ldxr, 0xC8400000#32, 0xFFFFFC00#32⟩
  , ⟨.stxr, 0xC8000000#32, 0xFFE0FC00#32⟩ ]

/-- The rows of formats B, CB and IM (R86 R87 R88). -/
def opcodeRowsBranchWide : List OpcodeRow :=
  [ ⟨.movz, 0xD2800000#32, 0xFF800000#32⟩
  , ⟨.movk, 0xF2800000#32, 0xFF800000#32⟩
  , ⟨.b, 0x14000000#32, 0xFC000000#32⟩
  , ⟨.bl, 0x94000000#32, 0xFC000000#32⟩
  , ⟨.cbz, 0xB4000000#32, 0xFF000000#32⟩
  , ⟨.cbnz, 0xB5000000#32, 0xFF000000#32⟩
  , ⟨.bEq, 0x54000000#32, 0xFF00001F#32⟩
  , ⟨.bNe, 0x54000001#32, 0xFF00001F#32⟩
  , ⟨.bHs, 0x54000002#32, 0xFF00001F#32⟩
  , ⟨.bLo, 0x54000003#32, 0xFF00001F#32⟩
  , ⟨.bHi, 0x54000008#32, 0xFF00001F#32⟩
  , ⟨.bLs, 0x54000009#32, 0xFF00001F#32⟩
  , ⟨.bGe, 0x5400000A#32, 0xFF00001F#32⟩
  , ⟨.bLt, 0x5400000B#32, 0xFF00001F#32⟩
  , ⟨.bGt, 0x5400000C#32, 0xFF00001F#32⟩
  , ⟨.bLe, 0x5400000D#32, 0xFF00001F#32⟩
  , ⟨.bMi, 0x54000004#32, 0xFF00001F#32⟩
  , ⟨.bPl, 0x54000005#32, 0xFF00001F#32⟩
  , ⟨.bVs, 0x54000006#32, 0xFF00001F#32⟩
  , ⟨.bVc, 0x54000007#32, 0xFF00001F#32⟩ ]

/-- The whole opcode table, 51 rows. -/
def opcodeTable : List OpcodeRow := opcodeRowsR ++ opcodeRowsI ++ opcodeRowsD ++ opcodeRowsBranchWide

/-! ## Fields of a word (R83 to R88, R91) -/

/-- Bits 4:0: `Rd`, or `Rt` in the D and CB formats. -/
def fieldRd (w : Code) : Fin 32 := (w.extractLsb' 0 5).toFin

/-- Bits 9:5: `Rn`. -/
def fieldRn (w : Code) : Fin 32 := (w.extractLsb' 5 5).toFin

/-- Bits 20:16: `Rm`; in STXR the status register `Rs`. -/
def fieldRm (w : Code) : Fin 32 := (w.extractLsb' 16 5).toFin

/-- Bits 15:10: `shamt`. -/
def fieldShamt (w : Code) : Nat := (w.extractLsb' 10 6).toNat

/-- Bits 21:10: `imm12`, used as it is (R90). -/
def fieldImm12 (w : Code) : Nat := (w.extractLsb' 10 12).toNat

/-- Bits 20:12: `imm9`, a signed byte offset (R90). -/
def fieldImm9 (w : Code) : Int := (w.extractLsb' 12 9).toInt

/-- Bits 20:5: `imm16`. -/
def fieldImm16 (w : Code) : Nat := (w.extractLsb' 5 16).toNat

/-- Bits 22:21, `hw`, as the shift `q = 16 * hw` (R90). -/
def fieldQuadrant (w : Code) : Nat := 16 * (w.extractLsb' 21 2).toNat

/-- A branch target from the branch's own index and its signed distance in instructions (R90); `none` when it
would lie before the program's first instruction, where no label can stand (R77, log 6). -/
def targetIndex (own : Nat) (distance : Int) : Option Nat :=
  if 0 ≤ (own : Int) + distance then some ((own : Int) + distance).toNat else none

/-- The target of B and BL: bits 25:0 (R86 R90). -/
def fieldTarget26 (own : Nat) (w : Code) : Option Nat := targetIndex own (w.extractLsb' 0 26).toInt

/-- The target of CBZ, CBNZ and B.cond: bits 23:5 (R87 R90). -/
def fieldTarget19 (own : Nat) (w : Code) : Option Nat := targetIndex own (w.extractLsb' 5 19).toInt

/-- The instruction of mnemonic `m` with its operands read from the fields of the word at index `own`
(R90 R91). -/
def operandsOf (m : Mnemonic) (own : Nat) (w : Code) : Option Instr :=
  match m with
  | .add => some (.add (fieldRd w) (fieldRn w) (fieldRm w))
  | .adds => some (.adds (fieldRd w) (fieldRn w) (fieldRm w))
  | .addi => some (.addi (fieldRd w) (fieldRn w) (fieldImm12 w))
  | .addis => some (.addis (fieldRd w) (fieldRn w) (fieldImm12 w))
  | .sub => some (.sub (fieldRd w) (fieldRn w) (fieldRm w))
  | .subs => some (.subs (fieldRd w) (fieldRn w) (fieldRm w))
  | .subi => some (.subi (fieldRd w) (fieldRn w) (fieldImm12 w))
  | .subis => some (.subis (fieldRd w) (fieldRn w) (fieldImm12 w))
  | .and => some (.and (fieldRd w) (fieldRn w) (fieldRm w))
  | .ands => some (.ands (fieldRd w) (fieldRn w) (fieldRm w))
  | .andi => some (.andi (fieldRd w) (fieldRn w) (fieldImm12 w))
  | .andis => some (.andis (fieldRd w) (fieldRn w) (fieldImm12 w))
  | .orr => some (.orr (fieldRd w) (fieldRn w) (fieldRm w))
  | .orri => some (.orri (fieldRd w) (fieldRn w) (fieldImm12 w))
  | .eor => some (.eor (fieldRd w) (fieldRn w) (fieldRm w))
  | .eori => some (.eori (fieldRd w) (fieldRn w) (fieldImm12 w))
  | .lsl => some (.lsl (fieldRd w) (fieldRn w) (fieldShamt w))
  | .lsr => some (.lsr (fieldRd w) (fieldRn w) (fieldShamt w))
  | .movz => some (.movz (fieldRd w) (fieldImm16 w) (fieldQuadrant w))
  | .movk => some (.movk (fieldRd w) (fieldImm16 w) (fieldQuadrant w))
  | .ldur => some (.ldur (fieldRd w) (fieldRn w) (fieldImm9 w))
  | .ldursw => some (.ldursw (fieldRd w) (fieldRn w) (fieldImm9 w))
  | .ldurh => some (.ldurh (fieldRd w) (fieldRn w) (fieldImm9 w))
  | .ldurb => some (.ldurb (fieldRd w) (fieldRn w) (fieldImm9 w))
  | .stur => some (.stur (fieldRd w) (fieldRn w) (fieldImm9 w))
  | .sturw => some (.sturw (fieldRd w) (fieldRn w) (fieldImm9 w))
  | .sturh => some (.sturh (fieldRd w) (fieldRn w) (fieldImm9 w))
  | .sturb => some (.sturb (fieldRd w) (fieldRn w) (fieldImm9 w))
  | .ldxr => some (.ldxr (fieldRd w) (fieldRn w))
  | .stxr => some (.stxr (fieldRd w) (fieldRm w) (fieldRn w))
  | .b => (fieldTarget26 own w).map .b
  | .bl => (fieldTarget26 own w).map .bl
  | .br => some (.br (fieldRn w))
  | .cbz => (fieldTarget19 own w).map (.cbz (fieldRd w))
  | .cbnz => (fieldTarget19 own w).map (.cbnz (fieldRd w))
  | .bEq => (fieldTarget19 own w).map .bEq
  | .bNe => (fieldTarget19 own w).map .bNe
  | .bHs => (fieldTarget19 own w).map .bHs
  | .bLo => (fieldTarget19 own w).map .bLo
  | .bHi => (fieldTarget19 own w).map .bHi
  | .bLs => (fieldTarget19 own w).map .bLs
  | .bGe => (fieldTarget19 own w).map .bGe
  | .bLt => (fieldTarget19 own w).map .bLt
  | .bGt => (fieldTarget19 own w).map .bGt
  | .bLe => (fieldTarget19 own w).map .bLe
  | .bMi => (fieldTarget19 own w).map .bMi
  | .bPl => (fieldTarget19 own w).map .bPl
  | .bVs => (fieldTarget19 own w).map .bVs
  | .bVc => (fieldTarget19 own w).map .bVc
  | .fcmps => some (.fcmps (fieldRn w) (fieldRm w))
  | .fcmpd => some (.fcmpd (fieldRn w) (fieldRm w))

/-- Why a word is not an instruction of a program at its index (30_encoding R93). -/
inductive Reject where
  /-- The word matches no row of the opcode table: no opcode, a condition number 14 or 15, or a non-zero unused
  field (R89 R93). Raised by `decode`; a loader refuses the whole program, which is safe. -/
  | noSuchInstruction
  /-- The word is a branch to before index 0, where no label can stand (R77). Raised by `decode`; a loader
  refuses the whole program, which is safe (log 6). -/
  | targetBeforeProgram
deriving DecidableEq, Repr

/-- The binary decoder of the word at index `own` (R93): total, it answers an instruction or rejects by name. -/
def decode (own : Nat) (w : Code) : Except Reject Instr :=
  match opcodeTable.find? (fun r => r.admits w) with
  | none => .error .noSuchInstruction
  | some r =>
    match operandsOf r.mnemonic own w with
    | none => .error .targetBeforeProgram
    | some i => .ok i

/-! ## The encoder -/

/-- Format R: opcode, Rm, shamt, Rn, Rd (R83). -/
def wordR (op : BitVec 11) (rm : Fin 32) (shamt : Nat) (rn rd : Fin 32) : Code :=
  op ++ BitVec.ofFin (w := 5) rm ++ BitVec.ofNat 6 shamt ++ BitVec.ofFin (w := 5) rn ++ BitVec.ofFin (w := 5) rd

/-- Format I: opcode, imm12, Rn, Rd (R84). -/
def wordI (op : BitVec 10) (imm : Nat) (rn rd : Fin 32) : Code :=
  op ++ BitVec.ofNat 12 imm ++ BitVec.ofFin (w := 5) rn ++ BitVec.ofFin (w := 5) rd

/-- Format D: opcode, imm9 in two's complement, op2 = 00, Rn, Rt (R85 R90). -/
def wordD (op : BitVec 11) (off : Int) (rn rt : Fin 32) : Code :=
  op ++ BitVec.ofInt 9 off ++ 0#2 ++ BitVec.ofFin (w := 5) rn ++ BitVec.ofFin (w := 5) rt

/-- Format D of an exclusive access: bits 20:16 hold `Rs` (zero in LDXR), bits 15:10 are zero (R85 R89). -/
def wordX (op : BitVec 11) (rs rn rt : Fin 32) : Code :=
  op ++ BitVec.ofFin (w := 5) rs ++ 0#6 ++ BitVec.ofFin (w := 5) rn ++ BitVec.ofFin (w := 5) rt

/-- Format B: opcode, imm26, the distance modulo `2^26` (R86 R90). -/
def wordB (op : BitVec 6) (own target : Nat) : Code := op ++ BitVec.ofInt 26 ((target : Int) - own)

/-- Format CB: opcode, imm19, the distance modulo `2^19`, then `Rt` or the condition number (R87 R90). -/
def wordCB (op : BitVec 8) (own target : Nat) (low : BitVec 5) : Code :=
  op ++ BitVec.ofInt 19 ((target : Int) - own) ++ low

/-- Format IM: opcode, `hw = q / 16`, imm16, Rd (R88 R90). -/
def wordIM (op : BitVec 9) (q imm : Nat) (rd : Fin 32) : Code :=
  op ++ BitVec.ofNat 2 (q / 16) ++ BitVec.ofNat 16 imm ++ BitVec.ofFin (w := 5) rd

/-- The word of an instruction at index `own`, by the formats of R83 to R88, the opcodes of R92 and the field
contents of R89 to R91. An operand too wide for its field is cut to it: `encode` refuses those. -/
def encodeWord (own : Nat) (i : Instr) : Code :=
  match i with
  | .add d n m => wordR 0b10001011000#11 m 0 n d
  | .adds d n m => wordR 0b10101011000#11 m 0 n d
  | .addi d n imm => wordI 0b1001000100#10 imm n d
  | .addis d n imm => wordI 0b1011000100#10 imm n d
  | .sub d n m => wordR 0b11001011000#11 m 0 n d
  | .subs d n m => wordR 0b11101011000#11 m 0 n d
  | .subi d n imm => wordI 0b1101000100#10 imm n d
  | .subis d n imm => wordI 0b1111000100#10 imm n d
  | .and d n m => wordR 0b10001010000#11 m 0 n d
  | .ands d n m => wordR 0b11101010000#11 m 0 n d
  | .andi d n imm => wordI 0b1001001000#10 imm n d
  | .andis d n imm => wordI 0b1111001000#10 imm n d
  | .orr d n m => wordR 0b10101010000#11 m 0 n d
  | .orri d n imm => wordI 0b1011001000#10 imm n d
  | .eor d n m => wordR 0b11001010000#11 m 0 n d
  | .eori d n imm => wordI 0b1101001000#10 imm n d
  | .lsl d n sh => wordR 0b11010011011#11 0 sh n d
  | .lsr d n sh => wordR 0b11010011010#11 0 sh n d
  | .movz d imm q => wordIM 0b110100101#9 q imm d
  | .movk d imm q => wordIM 0b111100101#9 q imm d
  | .ldur t n off => wordD 0b11111000010#11 off n t
  | .ldursw t n off => wordD 0b10111000100#11 off n t
  | .ldurh t n off => wordD 0b01111000010#11 off n t
  | .ldurb t n off => wordD 0b00111000010#11 off n t
  | .stur t n off => wordD 0b11111000000#11 off n t
  | .sturw t n off => wordD 0b10111000000#11 off n t
  | .sturh t n off => wordD 0b01111000000#11 off n t
  | .sturb t n off => wordD 0b00111000000#11 off n t
  | .ldxr t n => wordX 0b11001000010#11 0 n t
  | .stxr t st n => wordX 0b11001000000#11 st n t
  | .b target => wordB 0b000101#6 own target
  | .bl target => wordB 0b100101#6 own target
  | .br n => wordR 0b11010110000#11 0 0 n 0
  | .cbz t target => wordCB 0b10110100#8 own target (BitVec.ofFin (w := 5) t)
  | .cbnz t target => wordCB 0b10110101#8 own target (BitVec.ofFin (w := 5) t)
  | .bEq target => wordCB 0b01010100#8 own target 0#5
  | .bNe target => wordCB 0b01010100#8 own target 1#5
  | .bHs target => wordCB 0b01010100#8 own target 2#5
  | .bLo target => wordCB 0b01010100#8 own target 3#5
  | .bHi target => wordCB 0b01010100#8 own target 8#5
  | .bLs target => wordCB 0b01010100#8 own target 9#5
  | .bGe target => wordCB 0b01010100#8 own target 10#5
  | .bLt target => wordCB 0b01010100#8 own target 11#5
  | .bGt target => wordCB 0b01010100#8 own target 12#5
  | .bLe target => wordCB 0b01010100#8 own target 13#5
  | .bMi target => wordCB 0b01010100#8 own target 4#5
  | .bPl target => wordCB 0b01010100#8 own target 5#5
  | .bVs target => wordCB 0b01010100#8 own target 6#5
  | .bVc target => wordCB 0b01010100#8 own target 7#5
  | .fcmps n m => wordR 0b00011110001#11 m 0b001000 n 0
  | .fcmpd n m => wordR 0b00011110011#11 m 0b001000 n 0

/-- The encoder: the word of an instruction at index `own`, refused (`none`) when the word level cannot express
it: an immediate out of range, or a branch farther than its field (R90; 93 U22). -/
def encode (own : Nat) (i : Instr) : Option Code :=
  if i.encodable own then some (encodeWord own i) else none

/-- The instruction the decoder reads from the bits `w`, numbered as `opcode_table.json` numbers them. Every
instruction is one word of 32 bits, which has no byte order (20_memory R45); the word is read as standing at
index 0 (log 6, log 35). Bits from `nbits` on are zero; no instruction is longer than 32 bits. -/
def decodeTableWord (nbits w : Nat) : Option Instr :=
  if nbits ≤ 32 then
    match decode 0 (BitVec.ofNat 32 (w % 2 ^ nbits)) with
    | .ok i => some i
    | .error _ => none
  else none

end Sys2Proof
end

