-- ==== Sys2Proof/Machine/State.lean ====
section
/-!
DEFINITION. The state of the block as plain data (10_state R10 to R31), the reasons a step can stop, and the
state after reset.
-/

namespace Sys2Proof.Machine

/-- The four flags (10_state R18). -/
structure Flags where
  n : Bool
  z : Bool
  c : Bool
  v : Bool
deriving DecidableEq, Repr

/-- All four flags 0, their reset value (10_state R31). -/
def Flags.clear : Flags where
  n := false
  z := false
  c := false
  v := false

/-- The runtime faults of 60_exceptions R270 with the value each records (R271 R272 R273).

They are raised inside the meanings, and TAKEN there: a raised fault becomes the sticky error of a next state,
as R280 describes the entry. No step answers `Host.Outcome.fault` (log 12). -/
inductive Fault where
  /-- SegmentFault: raised by a data access whose first or last byte is outside the data window, and by BR to
  a word-aligned address outside the text segment (R271). Safe: the spec itself stops here. -/
  | segmentFault (address : Word)
  /-- PCAlignment: raised by BR to an address that is no multiple of 4 (R272). Safe: the spec itself stops here. -/
  | pcAlignment (target : Word)
  /-- SPAlignment: raised by a memory instruction with base register 28 when X28 is no multiple of 16 (R273).
  Safe: the spec itself stops here. -/
  | spAlignment (sp : Word)
deriving DecidableEq, Repr

/-- Why the model refuses. None of these is raised by an instruction of a loaded program. -/
inductive Refusal where
  /-- An arm of `exec` that has no meaning yet; no arm is such. Safe: nothing is claimed of it. -/
  | notModelled (mnemonic : String)
  /-- Raised by a host command that would drive a loaded program with the engine it was not loaded for
  (10_state R29, D43). Safe: the spec refuses it too. -/
  | mixedEngines
  /-- Raised by a load whose parameters break the constraints of 00_scope R6 (93 U23). Safe: the spec refuses
  it at launch too. -/
  | illegalLaunch
  /-- Raised by the word-level loader at the first word that is no instruction (30_encoding R93). Safe: the spec
  refuses the whole program too. -/
  | notAnInstruction (index : Nat) (why : Reject)
  /-- Raised by the word-level loader when a branch target lies past the program's last instruction, where no
  label can stand (30_encoding R77). Safe: no such program exists. -/
  | labelOutsideProgram
deriving DecidableEq, Repr

/-- The sticky runtime error (10_state R23): the fault, which carries kind and recorded value, and the source
line of the faulting instruction (60_exceptions R274; the message text is not kept, log 12). -/
structure RuntimeError where
  fault : Fault
  line : Nat
deriving DecidableEq, Repr

/-- The kinds of compile-time error (30_encoding R101). -/
inductive CompileErrorKind where
  /-- The first token of the instruction matches no admitted mnemonic (R75). -/
  | unsupportedInstruction
  /-- A token that does not fit the grammar where it stands. -/
  | invalidToken
  /-- An extra token after the instruction was complete. -/
  | unexpectedToken
  /-- The line ends before the instruction is complete. -/
  | missingTokens
  /-- A branch names a label that no line defines (R80). -/
  | undefinedLabel
  /-- A line defines a label that an earlier line defined: refused by the model, the source is silent (log 25). -/
  | duplicateLabel
  /-- An immediate outside its range or set (R79). -/
  | immediateOutOfBounds
deriving DecidableEq, Repr

/-- One member of "the permitted range or set" that an error carries (30_encoding R101; as terms, log 37). -/
inductive Alternative where
  /-- any admitted mnemonic, all upper or all lower case (R72 R74) -/
  | mnemonic
  /-- the definition of a label, its name and a colon (R95) -/
  | labelDefinition
  /-- a label name that no earlier line defines (log 25) -/
  | newLabel
  /-- a label name -/
  | labelName
  /-- exactly this label, which the program defines (R80) -/
  | definedLabel (name : Text)
  /-- a general register, numeric or alias (R78) -/
  | xReg
  /-- a float register, S view (R78) -/
  | sReg
  /-- a float register, D view (R78) -/
  | dReg
  /-- an immediate (R95) -/
  | immediate
  /-- an immediate with a value of this range or set (R79) -/
  | valueIn (values : Permitted)
  /-- this punctuation character -/
  | punct (c : Char)
  /-- exactly this spelling, the case of its letters included: the LSL of a wide move (R96) -/
  | spelled (word : Text)
  /-- the end of the line -/
  | endOfLine
deriving DecidableEq, Repr

/-- A compile-time error: "the exact source line number", "the offending token/value" (empty when the line ends too
soon), and "the permitted range or set", any of whose members would have been admitted (30_encoding R101). -/
structure CompileError where
  kind : CompileErrorKind
  line : Nat
  token : Text
  permitted : List Alternative
deriving DecidableEq, Repr

/-- `CPUSnapshot`: the register files and the flags (10_state R26). -/
structure Snapshot where
  x : Vector Word 32
  d : Vector Word 32
  flags : Flags
deriving DecidableEq, Repr

/-- `PipelineInstruction`, an instruction in flight (70_reset R322). -/
structure InFlight where
  record : Record
  before : Snapshot
  after : Snapshot
  fetchPC : Word
  taken : Bool
deriving DecidableEq, Repr

/-- The 5-slot buffer, one slot per stage; `none` is a bubble (70_reset R321). -/
structure Buffer where
  slotIF : Option InFlight
  slotID : Option InFlight
  slotEX : Option InFlight
  slotMEM : Option InFlight
  slotWB : Option InFlight
deriving DecidableEq, Repr

/-- Five bubbles. -/
def Buffer.empty : Buffer where
  slotIF := none
  slotID := none
  slotEX := none
  slotMEM := none
  slotWB := none

/-- What a pipeline register holds of the instruction in its slot (70_reset R329): mnemonic, control word and
the three register fields of R330. An empty register is `none` of this type. -/
structure StageFields where
  mnemonic : Mnemonic
  ctrl : ControlWord
  src1 : Option Reg
  src2 : Option Reg
  dest : Option Reg
deriving DecidableEq, Repr

/-- A forwarding diagnostic (70_reset R336 R337). -/
inductive Forward where
  /-- the source's `None` -/
  | noForward
  /-- the producer is in EXMEM -/
  | exmem
  /-- the producer is in MEMWB -/
  | memwb
deriving DecidableEq, Repr

/-- One line of the tick log: a mnemonic per stage, `none` for "bubble" (70_reset R341). -/
structure TickLine where
  stageIF : Option Mnemonic
  stageID : Option Mnemonic
  stageEX : Option Mnemonic
  stageMEM : Option Mnemonic
  stageWB : Option Mnemonic
deriving DecidableEq, Repr

/-- The two ways to run a program (00_scope R4). -/
inductive Engine where
  | singleCycle
  | pipelined
deriving DecidableEq, Repr

/-- The state of the block. In pipelined mode the CPU fields are the front end `fe` of 70_reset R320. -/
structure State where
  /-- The general register file `X[0..31]` (10_state R11); read and written through `State.readX`, `State.writeX`. -/
  x : Vector Word 32
  /-- The float register file `D[0..31]` (R15). -/
  d : Vector Word 32
  /-- N, Z, C, V (R18). -/
  flags : Flags
  /-- The instruction index (R19). -/
  idx : Nat
  /-- The exclusive monitor (R20). -/
  mon : Option Word
  /-- The observable branch-taken flag (R21). -/
  branchTaken : Bool
  /-- The observable STXR-success flag (R22). -/
  stxrSuccess : Bool
  /-- The sticky runtime error (R23). -/
  err : Option RuntimeError
  /-- The data memory `M` (20_memory R40). -/
  mem : Memory
  /-- The loaded program (R24). -/
  program : Program
  /-- The compile-time errors of the last load (R28, 70_reset R301). -/
  compileErrors : List CompileError
  /-- The parameters the program was launched with (00_scope R6 R7; log 1). -/
  params : Params
  /-- The engine the program was loaded for (R29; log 4). -/
  engine : Engine
  /-- The 5-slot buffer (R27). -/
  buf : Buffer
  /-- The visible snapshot (R27). -/
  vis : Snapshot
  /-- The pipeline register of slot 1 (R27, 70_reset R329). -/
  ifid : Option StageFields
  /-- The pipeline register of slot 2. -/
  idex : Option StageFields
  /-- The pipeline register of slot 3. -/
  exmem : Option StageFields
  /-- The pipeline register of slot 4. -/
  memwb : Option StageFields
  /-- Whether the next tick stalls (70_reset R335). -/
  stallNext : Bool
  /-- Whether the next fetch flushes IF (70_reset R340). -/
  flushNext : Bool
  /-- The CBZ/CBNZ register hazard (70_reset R332). -/
  hazCB : Bool
  /-- The B.cond flag hazard (70_reset R333). -/
  hazFlag : Bool
  /-- The load-use hazard (70_reset R334). -/
  hazLoad : Bool
  /-- The forwarding diagnostic of the first source (70_reset R336 R337). -/
  fwdA : Forward
  /-- The forwarding diagnostic of the second source. -/
  fwdB : Forward
  /-- The tick log, oldest line first (70_reset R341). -/
  tickLog : List TickLine
deriving DecidableEq, Repr

/-- The general register file right after a load: `XRESET`, with `SP_RESET` in register 28 and 0 in register 31
(10_state R31). -/
def initialRegisters (l : Launch) : Vector Word 32 := (l.xReset.set 28 l.spReset).set 31 0#64

/-- The block right after program `p` has been loaded for engine `e` under launch `l`: the reset table of
10_state R31. -/
def State.loaded (l : Launch) (e : Engine) (p : Program) : State where
  x := initialRegisters l
  d := l.dReset
  flags := Flags.clear
  idx := 0
  mon := none
  branchTaken := false
  stxrSuccess := false
  err := none
  mem := l.memInit
  program := p
  compileErrors := []
  params := l.params
  engine := e
  buf := Buffer.empty
  vis := { x := initialRegisters l, d := l.dReset, flags := Flags.clear }
  ifid := none
  idex := none
  exmem := none
  memwb := none
  stallNext := false
  flushNext := false
  hazCB := false
  hazFlag := false
  hazLoad := false
  fwdA := .noForward
  fwdB := .noForward
  tickLog := []

/-- The machine right after reset with every parameter at its default and no program loaded (10_state R31;
log 2, log 4, log 5). -/
def State.reset : State := State.loaded Launch.default .singleCycle Program.empty

end Sys2Proof.Machine
end

