-- ==== Sys2Proof/Machine/Assembler.lean ====
section
/-!
DEFINITION. The assembler that stands before execution: spelling, operand forms, immediate ranges, labels, the
pseudo-instructions and the compile gate (30_encoding R74 R75 R77 to R80, R95 to R102). Forms the source does
not show are refused (log 25). The out-of-scope Lexer and Parser are not modelled state by state (00_scope R3):
what they decide about which programs exist is.
-/

namespace Sys2Proof.Machine

/-! ## Tokens (R95) -/

/-- White space between tokens. -/
def isBlankChar (c : Char) : Bool := c == ' ' || c == '\t'

/-- A character that is a token by itself: comma, brackets, the colon of a label. -/
def isPunctuation (c : Char) : Bool := c == ',' || c == '[' || c == ']' || c == ':'

/-- Put the token read so far, if there is one, before the rest. -/
def flushToken (current : Text) (rest : List Text) : List Text :=
  if current.isEmpty then rest else current :: rest

/-- The tokens of the rest of a line, `current` being the token under way. -/
def tokensFrom (current : Text) : Text → List Text
  | [] => flushToken current []
  | c :: cs =>
    if isBlankChar c then flushToken current (tokensFrom [] cs)
    else if isPunctuation c then flushToken current ([c] :: tokensFrom [] cs)
    else tokensFrom (current ++ [c]) cs

/-- The tokens of a line; white space between them is discarded. -/
def tokensOf (line : Text) : List Text := tokensFrom [] line

/-- The lines of a text, each ended by a newline or by the end of the text; `current` is the line under way. -/
def linesFrom (current : Text) : Text → List Text
  | [] => if current.isEmpty then [] else [current]
  | c :: cs => if c == '\n' then current :: linesFrom [] cs else linesFrom (current ++ [c]) cs

/-- The lines of a program text (R95). -/
def linesOf (text : Text) : List Text := linesFrom [] text

/-- A letter. -/
def isLetter (c : Char) : Bool :=
  (decide ('a' ≤ c) && decide (c ≤ 'z')) || (decide ('A' ≤ c) && decide (c ≤ 'Z'))

/-- A decimal digit. -/
def isDecimal (c : Char) : Bool := decide ('0' ≤ c) && decide (c ≤ '9')

/-- A label: a letter or underscore, then letters, digits, underscores (the lexical form is the model's, log 25). -/
def isLabelName : Text → Bool
  | [] => false
  | c :: cs => (isLetter c || c == '_') && cs.all (fun x => isLetter x || isDecimal x || x == '_')

/-- The value of a digit sequence after `acc`. -/
def decimalFrom (acc : Nat) : Text → Option Nat
  | [] => some acc
  | c :: cs => if isDecimal c then decimalFrom (10 * acc + (c.toNat - '0'.toNat)) cs else none

/-- A decimal number of at least one digit. -/
def readDecimal (t : Text) : Option Nat := if t.isEmpty then none else decimalFrom 0 t

/-- A register number: decimal with no leading zero. -/
def readIndex (t : Text) : Option Nat :=
  match t with
  | '0' :: _ :: _ => none
  | digits => readDecimal digits

/-- An immediate: `#`, an optional minus sign, decimal digits (R95). -/
def readImmediate : Text → Option Int
  | '#' :: '-' :: ds => (readDecimal ds).map (fun n => -(n : Int))
  | '#' :: ds => (readDecimal ds).map (fun n => (n : Int))
  | _ => none

/-- The register of a number below `bound`. -/
def indexBelow (bound : Nat) (n : Nat) : Option (Fin 32) :=
  if h : n < 32 then (if n < bound then some ⟨n, h⟩ else none) else none

/-- A general register: `X0` to `X30`, or an alias (R78, 10_state R13). `X31` is not shown and is refused. -/
def readX (t : Text) : Option Reg :=
  if t = "XZR".toList then some XZR
  else if t = "SP".toList then some SP
  else if t = "FP".toList then some FP
  else if t = "LR".toList then some LR
  else if t = "IP0".toList then some IP0
  else if t = "IP1".toList then some IP1
  else
    match t with
    | 'X' :: ds => (readIndex ds).bind (indexBelow 31)
    | _ => none

/-- A float register under the letter of its view, `S` or `D` (R78). -/
def readFloat (letter : Char) (t : Text) : Option FReg :=
  match t with
  | c :: ds => if c == letter then (readIndex ds).bind (indexBelow 32) else none
  | [] => none

/-! ## Mnemonics (R71 R72 R74) -/

/-- What a mnemonic token names: an instruction, or one of the three pseudo-instructions (R71). -/
inductive SourceMnemonic where
  | real (m : Mnemonic)
  | cmp
  | cmpi
  | mov
deriving DecidableEq, Repr

/-- The upper-case spelling. -/
def SourceMnemonic.spelling : SourceMnemonic → Text
  | .real m => m.spelling.toList
  | .cmp => "CMP".toList
  | .cmpi => "CMPI".toList
  | .mov => "MOV".toList

/-- Every name the assembler admits. -/
def sourceMnemonics : List SourceMnemonic := allMnemonics.map .real ++ [.cmp, .cmpi, .mov]

/-- The case a mnemonic is written in; mixed case is forbidden (R74). -/
inductive LetterCase where
  | upper
  | lower
deriving DecidableEq, Repr

/-- A spelling in a case. -/
def inCase (k : LetterCase) (t : Text) : Text :=
  match k with
  | .upper => t
  | .lower => t.map Char.toLower

/-- The instruction a token names and the case it is written in (R74 R75). -/
def readMnemonic (t : Text) : Option (SourceMnemonic × LetterCase) :=
  match sourceMnemonics.find? (fun m => decide (m.spelling = t)) with
  | some m => some (m, .upper)
  | none =>
    match sourceMnemonics.find? (fun m => decide (inCase .lower m.spelling = t)) with
    | some m => some (m, .lower)
    | none => none

/-! ## Operand forms and what they become (R77, R96 to R99) -/

/-- The operand form of a grammar group, with the instruction its operands become. -/
inductive OperandForm where
  /-- `Xd, Xn, Xm` -/
  | threeRegs (f : Reg → Reg → Reg → Instr)
  /-- `Xn, Xm` -/
  | twoRegs (f : Reg → Reg → Instr)
  /-- `Xn` -/
  | oneReg (f : Reg → Instr)
  /-- `Xd, Xn, #imm` -/
  | twoRegsImm (permitted : Permitted) (f : Reg → Reg → Nat → Instr)
  /-- `Xn, #imm` -/
  | oneRegImm (permitted : Permitted) (f : Reg → Nat → Instr)
  /-- `Xd, #imm` with an optional `, LSL #q` -/
  | wide (f : Reg → Nat → Nat → Instr)
  /-- `Xt, [Xn, #off]` -/
  | memory (f : Reg → Reg → Int → Instr)
  /-- `Xt, [Xn, #0]` -/
  | loadExclusive (f : Reg → Reg → Instr)
  /-- `Xt, Xs, [Xn, #0]` -/
  | storeExclusive (f : Reg → Reg → Reg → Instr)
  /-- `label` -/
  | toLabel (f : Nat → Instr)
  /-- `Xt, label` -/
  | regToLabel (f : Reg → Nat → Instr)
  /-- `Sn, Sm` -/
  | singles (f : FReg → FReg → Instr)
  /-- `Dn, Dm` -/
  | doubles (f : FReg → FReg → Instr)

/-- The operand form of each instruction (R77). -/
def formOf (m : Mnemonic) : OperandForm :=
  match m with
  | .add => .threeRegs .add
  | .adds => .threeRegs .adds
  | .addi => .twoRegsImm permittedImm12 .addi
  | .addis => .twoRegsImm permittedImm12 .addis
  | .sub => .threeRegs .sub
  | .subs => .threeRegs .subs
  | .subi => .twoRegsImm permittedImm12 .subi
  | .subis => .twoRegsImm permittedImm12 .subis
  | .and => .threeRegs .and
  | .ands => .threeRegs .ands
  | .andi => .twoRegsImm permittedImm12 .andi
  | .andis => .twoRegsImm permittedImm12 .andis
  | .orr => .threeRegs .orr
  | .orri => .twoRegsImm permittedImm12 .orri
  | .eor => .threeRegs .eor
  | .eori => .twoRegsImm permittedImm12 .eori
  | .lsl => .twoRegsImm permittedShift .lsl
  | .lsr => .twoRegsImm permittedShift .lsr
  | .movz => .wide .movz
  | .movk => .wide .movk
  | .ldur => .memory .ldur
  | .ldursw => .memory .ldursw
  | .ldurh => .memory .ldurh
  | .ldurb => .memory .ldurb
  | .stur => .memory .stur
  | .sturw => .memory .sturw
  | .sturh => .memory .sturh
  | .sturb => .memory .sturb
  | .ldxr => .loadExclusive .ldxr
  | .stxr => .storeExclusive .stxr
  | .b => .toLabel .b
  | .bl => .toLabel .bl
  | .br => .oneReg .br
  | .cbz => .regToLabel .cbz
  | .cbnz => .regToLabel .cbnz
  | .bEq => .toLabel .bEq
  | .bNe => .toLabel .bNe
  | .bHs => .toLabel .bHs
  | .bLo => .toLabel .bLo
  | .bHi => .toLabel .bHi
  | .bLs => .toLabel .bLs
  | .bGe => .toLabel .bGe
  | .bLt => .toLabel .bLt
  | .bGt => .toLabel .bGt
  | .bLe => .toLabel .bLe
  | .bMi => .toLabel .bMi
  | .bPl => .toLabel .bPl
  | .bVs => .toLabel .bVs
  | .bVc => .toLabel .bVc
  | .fcmps => .singles .fcmps
  | .fcmpd => .doubles .fcmpd

/-- The operand form of a source mnemonic: CMP is SUBS with destination XZR (R97), CMPI is SUBIS with destination
XZR (R98), MOV is ORR with first source XZR (R99; log 32). -/
def sourceFormOf (m : SourceMnemonic) : OperandForm :=
  match m with
  | .real r => formOf r
  | .cmp => .twoRegs (fun n m => .subs XZR n m)
  | .cmpi => .oneRegImm permittedImm12 (fun n imm => .subis XZR n imm)
  | .mov => .twoRegs (fun d n => .orr d XZR n)

/-- The token sequence of an operand form (R77), each token by the one alternative permitted there. The tail of a wide
move is `wideTail`. -/
def OperandForm.expected : OperandForm → List Alternative
  | .threeRegs _ => [.xReg, .punct ',', .xReg, .punct ',', .xReg]
  | .twoRegs _ => [.xReg, .punct ',', .xReg]
  | .oneReg _ => [.xReg]
  | .twoRegsImm _ _ => [.xReg, .punct ',', .xReg, .punct ',', .immediate]
  | .oneRegImm _ _ => [.xReg, .punct ',', .immediate]
  | .wide _ => [.xReg, .punct ',', .immediate]
  | .memory _ => [.xReg, .punct ',', .punct '[', .xReg, .punct ',', .immediate, .punct ']']
  | .loadExclusive _ => [.xReg, .punct ',', .punct '[', .xReg, .punct ',', .immediate, .punct ']']
  | .storeExclusive _ =>
    [.xReg, .punct ',', .xReg, .punct ',', .punct '[', .xReg, .punct ',', .immediate, .punct ']']
  | .toLabel _ => [.labelName]
  | .regToLabel _ => [.xReg, .punct ',', .labelName]
  | .singles _ => [.sReg, .punct ',', .sReg]
  | .doubles _ => [.dReg, .punct ',', .dReg]

/-- `LSL #q`, which may follow the comma after a wide move's immediate; LSL is spelled in the case of the instruction
(R96). -/
def wideTail (k : LetterCase) : List Alternative := [.spelled (inCase k "LSL".toList), .immediate]

/-- An operand as read from its token. -/
inductive Operand where
  | reg (i : Fin 32)
  | imm (v : Int) (token : Text)
  | label (name : Text)
deriving DecidableEq, Repr

/-- What is wrong with a line: the kind, the offending token and the permitted range or set (R101). -/
structure LineError where
  kind : CompileErrorKind
  token : Text
  permitted : List Alternative
deriving DecidableEq, Repr

/-- "wrong token for the current grammar continuation" (R101). -/
def wrongToken (permitted : List Alternative) (t : Text) : LineError where
  kind := .invalidToken
  token := t
  permitted := permitted

/-- "extra token after reaching an accepting state" (R101). -/
def extraToken (permitted : List Alternative) (t : Text) : LineError where
  kind := .unexpectedToken
  token := t
  permitted := permitted

/-- "missing token(s)": the tokens end in a non-accepting state (R101). There is no offending token to echo. -/
def tokensMissing (permitted : List Alternative) : LineError where
  kind := .missingTokens
  token := []
  permitted := permitted

/-- Read one token where `e` is permitted: the operand it gives, if any. The grammar permits none of the last six
alternatives at an operand. -/
def readToken (e : Alternative) (t : Text) : Except LineError (Option Operand) :=
  match e with
  | .xReg =>
    match readX t with
    | some i => .ok (some (.reg i))
    | none => .error (wrongToken [e] t)
  | .sReg =>
    match readFloat 'S' t with
    | some i => .ok (some (.reg i))
    | none => .error (wrongToken [e] t)
  | .dReg =>
    match readFloat 'D' t with
    | some i => .ok (some (.reg i))
    | none => .error (wrongToken [e] t)
  | .immediate =>
    match readImmediate t with
    | some v => .ok (some (.imm v t))
    | none => .error (wrongToken [e] t)
  | .labelName => if isLabelName t then .ok (some (.label t)) else .error (wrongToken [e] t)
  | .punct c => if t = [c] then .ok none else .error (wrongToken [e] t)
  | .spelled word => if t = word then .ok none else .error (wrongToken [e] t)
  | .mnemonic | .labelDefinition | .newLabel | .definedLabel _ | .valueIn _ | .endOfLine => .error (wrongToken [e] t)

/-- Match the tokens against the expected sequence, left to right: the operands, and the tokens left over. -/
def matchTokens : List Alternative → List Text → Except LineError (List Operand × List Text)
  | [], ts => .ok ([], ts)
  | e :: _, [] => .error (tokensMissing [e])
  | e :: es, t :: ts =>
    match readToken e t with
    | .error x => .error x
    | .ok o =>
      match matchTokens es ts with
      | .error x => .error x
      | .ok (os, rest) => .ok (o.toList ++ os, rest)

/-- A line after parsing: its operand form and the operands. -/
structure ParsedLine where
  form : OperandForm
  operands : List Operand

/-- The tokens after the immediate of a wide move, an accepting state: nothing, which reads as shift 0, or a comma and
`LSL #q` (R96). -/
def parseWideTail (k : LetterCase) (os : List Operand) (ts : List Text) : Except LineError (List Operand) :=
  match ts with
  | [] => .ok (os ++ [.imm 0 "#0".toList])
  | t :: rest =>
    if t = [','] then
      match matchTokens (wideTail k) rest with
      | .error x => .error x
      | .ok (tail, []) => .ok (os ++ tail)
      | .ok (_, extra :: _) => .error (extraToken [.endOfLine] extra)
    else .error (extraToken [.punct ',', .endOfLine] t)

/-- The operands of an instruction line; any token after a complete instruction is unexpected (R101). -/
def parseOperands (k : LetterCase) (form : OperandForm) (ts : List Text) : Except LineError (List Operand) :=
  match matchTokens form.expected ts with
  | .error x => .error x
  | .ok (os, rest) =>
    match form with
    | .wide _ => parseWideTail k os rest
    | .threeRegs _ | .twoRegs _ | .oneReg _ | .twoRegsImm _ _ | .oneRegImm _ _ | .memory _ | .loadExclusive _
    | .storeExclusive _ | .toLabel _ | .regToLabel _ | .singles _ | .doubles _ =>
      match rest with
      | [] => .ok os
      | extra :: _ => .error (extraToken [.endOfLine] extra)

/-- Split an optional label definition `name:` from the front of a line (R95). -/
def splitLabel (ts : List Text) : Option Text × List Text :=
  match ts with
  | name :: [':'] :: rest => (some name, rest)
  | other => (none, other)

/-- The label a line defines, when its name is well spelled. -/
def definedLabel (line : Text) : Option Text :=
  match (splitLabel (tokensOf line)).1 with
  | some name => if isLabelName name then some name else none
  | none => none

/-- What may start a line, or follow its label definition (R75 R95). -/
def lineStart (label : Option Text) : List Alternative :=
  match label with
  | none => [.mnemonic, .labelDefinition]
  | some _ => [.mnemonic]

/-- Parse one line; at most one error per line (R101). A line with no instruction is refused (log 25). Two choices of
the model where R101 is silent (log 37): a token before a colon that is no well-spelled label name, as in `1a: ADD X1,
X2, X3`, is an InvalidToken and not an UnsupportedInstruction; and the error kept is the leftmost: the label's name,
then the mnemonic, then the operand tokens from left to right. -/
def parseLine (line : Text) : Except LineError ParsedLine :=
  match splitLabel (tokensOf line) with
  | (label, ts) =>
    if (label.map isLabelName) = some false then .error (wrongToken [.labelName] (label.getD []))
    else
      match ts with
      | [] => .error (tokensMissing (lineStart label))
      | t :: rest =>
        match readMnemonic t with
        | none => .error { kind := .unsupportedInstruction, token := t, permitted := lineStart label }
        | some (m, k) =>
          match parseOperands k (sourceFormOf m) rest with
          | .error x => .error x
          | .ok os => .ok { form := sourceFormOf m, operands := os }

/-! ## The Decoder (R79 R80) -/

/-- An immediate in its permitted range or set, else ImmediateOutOfBounds (R79). -/
def checkImmediate (p : Permitted) (v : Int) (token : Text) : Except LineError Int :=
  if p.allows v then .ok v
  else .error { kind := .immediateOutOfBounds, token := token, permitted := [.valueIn p] }

/-- The index a label stands for, else UndefinedLabel, which permits the labels the program defines (R80 R101). -/
def resolveLabel (table : List (Text × Nat)) (name : Text) : Except LineError Nat :=
  match table.lookup name with
  | some i => .ok i
  | none => .error { kind := .undefinedLabel, token := name, permitted := table.map (fun d => .definedLabel d.1) }

/-- Operands that do not fit the form; the token match leaves none such. -/
def malformedOperands : Except LineError Instr := .error (tokensMissing [])

/-- The instruction of a parsed line, its immediates checked and its label resolved (R79 R80). -/
def instructionOf (table : List (Text × Nat)) (p : ParsedLine) : Except LineError Instr :=
  match p.form with
  | .threeRegs f =>
    match p.operands with
    | [.reg a, .reg b, .reg c] => .ok (f a b c)
    | _ => malformedOperands
  | .twoRegs f =>
    match p.operands with
    | [.reg a, .reg b] => .ok (f a b)
    | _ => malformedOperands
  | .oneReg f =>
    match p.operands with
    | [.reg a] => .ok (f a)
    | _ => malformedOperands
  | .twoRegsImm q f =>
    match p.operands with
    | [.reg a, .reg b, .imm v t] => (checkImmediate q v t).map (fun i => f a b i.toNat)
    | _ => malformedOperands
  | .oneRegImm q f =>
    match p.operands with
    | [.reg a, .imm v t] => (checkImmediate q v t).map (fun i => f a i.toNat)
    | _ => malformedOperands
  | .wide f =>
    match p.operands with
    | [.reg a, .imm v t, .imm w u] =>
      match checkImmediate permittedWide v t with
      | .ok i => (checkImmediate permittedQuadrant w u).map (fun j => f a i.toNat j.toNat)
      | .error x => .error x
    | _ => malformedOperands
  | .memory f =>
    match p.operands with
    | [.reg a, .reg b, .imm v t] => (checkImmediate permittedOffset v t).map (fun i => f a b i)
    | _ => malformedOperands
  | .loadExclusive f =>
    match p.operands with
    | [.reg a, .reg b, .imm v t] => (checkImmediate permittedExclusive v t).map (fun _ => f a b)
    | _ => malformedOperands
  | .storeExclusive f =>
    match p.operands with
    | [.reg a, .reg b, .reg c, .imm v t] => (checkImmediate permittedExclusive v t).map (fun _ => f a b c)
    | _ => malformedOperands
  | .toLabel f =>
    match p.operands with
    | [.label l] => (resolveLabel table l).map f
    | _ => malformedOperands
  | .regToLabel f =>
    match p.operands with
    | [.reg a, .label l] => (resolveLabel table l).map (f a)
    | _ => malformedOperands
  | .singles f =>
    match p.operands with
    | [.reg a, .reg b] => .ok (f a b)
    | _ => malformedOperands
  | .doubles f =>
    match p.operands with
    | [.reg a, .reg b] => .ok (f a b)
    | _ => malformedOperands

/-! ## The program (R80 R101 R102) -/

/-- The branch table of the lines from index `i` on: each defined label with the index of its line (R80). -/
def branchTableFrom (i : Nat) : List Text → List (Text × Nat)
  | [] => []
  | line :: rest =>
    match definedLabel line with
    | some name => (name, i) :: branchTableFrom (i + 1) rest
    | none => branchTableFrom (i + 1) rest

/-- The line at index `i` defines a label that an earlier line defined (log 25). -/
def redefines (table : List (Text × Nat)) (i : Nat) (line : Text) : Option Text :=
  match definedLabel line with
  | some name => if table.lookup name = some i then none else some name
  | none => none

/-- The error of the line at index `i`, whose source line number is `i + 1` (log 25). -/
def LineError.atIndex (x : LineError) (i : Nat) : CompileError where
  kind := x.kind
  line := i + 1
  token := x.token
  permitted := x.permitted

/-- Compile the line at index `i`: its record, or its one error. Of several the model keeps the first of this order,
on which R101 is silent (log 37): the error of the parse (see `parseLine`), a duplicate label, then the immediates from
left to right or the branch label. The branch table holds the labels of every line, those with an error too. -/
def compileLine (table : List (Text × Nat)) (i : Nat) (line : Text) : Except CompileError Record :=
  match parseLine line with
  | .error x => .error (x.atIndex i)
  | .ok p =>
    match redefines table i line with
    | some name => .error { kind := .duplicateLabel, line := i + 1, token := name, permitted := [.newLabel] }
    | none =>
      match instructionOf table p with
      | .error x => .error (x.atIndex i)
      | .ok instr => .ok (Record.bind instr (i + 1))

/-- Compile the lines from index `i` on: the errors found and the records made. -/
def compileFrom (table : List (Text × Nat)) (i : Nat) : List Text → List CompileError × List Record
  | [] => ([], [])
  | line :: rest =>
    let more := compileFrom table (i + 1) rest
    match compileLine table i line with
    | .error e => (e :: more.1, more.2)
    | .ok r => (more.1, r :: more.2)

/-- Compile a program: "if any compile error exists, execution must not start" (R102). Either every error, one per
line at most, or the program. -/
def compile (lines : List Text) : Except (List CompileError) Program :=
  let table := branchTableFrom 0 lines
  match compileFrom table 0 lines with
  | ([], records) => .ok { records := records, branchTable := table }
  | (e :: errors, _) => .error (e :: errors)

end Sys2Proof.Machine
end

