-- ==== Sys2Proof/Machine/Ops.lean ====
section
/-!
DEFINITION. The named operations over registers, the program counter, memory, the monitor and the sticky error:
the only places where a meaning reads or writes them. Taking a fault is one operation, `State.takeFault`; the
spec gives no return from it (60_exceptions R282 R286).
-/

namespace Sys2Proof

/-! ## Bytes of memory (20_memory R40) -/

/-- The byte at an address; an address not listed reads as 0 (20_memory R40 R44, log 3). -/
def Memory.readByte : Memory → Nat → Byte
  | [], _ => 0#8
  | (a, v) :: m, k => if k = a then v else Memory.readByte m k

/-- The memory with one byte changed, in canonical form: writing 0 removes the entry. -/
def Memory.writeByte : Memory → Nat → Byte → Memory
  | [], k, v => if v = 0#8 then [] else [(k, v)]
  | (a, b) :: m, k, v =>
    if k < a then (if v = 0#8 then (a, b) :: m else (k, v) :: (a, b) :: m)
    else if k = a then (if v = 0#8 then m else (a, v) :: m)
    else (a, b) :: Memory.writeByte m k v

/-- The `n` bytes from address `a` on, lowest address first; addresses are 64-bit (00_scope R8). -/
def Memory.loadBytes (m : Memory) (a : Word) : Nat → List Byte
  | 0 => []
  | n + 1 => m.readByte a.toNat :: Memory.loadBytes m (a + 1) n

/-- The memory after the listed bytes are stored from address `a` on, the first at `a`. -/
def Memory.storeBytes (m : Memory) (a : Word) : List Byte → Memory
  | [] => m
  | b :: bs => Memory.storeBytes (m.writeByte a.toNat b) (a + 1) bs

/-- The low `n` bytes of a value, most significant first: byte `i` is `v[8(n-i)-1 : 8(n-i-1)]` (20_memory R48). -/
def toBigEndian (v : Word) : Nat → List Byte
  | 0 => []
  | n + 1 => v.extractLsb' (8 * n) 8 :: toBigEndian v n

/-- The value of a byte list, the first byte most significant (20_memory R47), zero-extended to 64 bits. -/
def fromBigEndian (bs : List Byte) : Word :=
  bs.foldl (fun acc b => (acc <<< 8) ||| b.setWidth 64) 0#64

end Sys2Proof

namespace Sys2Proof.Machine

/-! ## Registers (10_state R11 R12 R16) -/

/-- `X[i]`: register 31 reads as 0 (R11). -/
def State.readX (s : State) (i : Reg) : Word := if i = XZR then 0#64 else s.x[i]

/-- `X[i] <- v`: a write to register 31 has no effect (R12). -/
def State.writeX (s : State) (i : Reg) (v : Word) : State :=
  { s with x := if i = XZR then s.x else s.x.set i v }

/-- `D[i]`: the whole float register (R16). -/
def State.readD (s : State) (i : FReg) : Word := s.d[i]

/-- `S[i] = D[i][31:0]` (R16). -/
def State.readS (s : State) (i : FReg) : BitVec 32 := (s.d[i]).extractLsb' 0 32

/-- `NZCV <- f` (R18). -/
def State.setFlags (s : State) (f : Flags) : State := { s with flags := f }

/-! ## The program counter (10_state R19 R21, 46_branch R230) -/

/-- The program counter of index `k`: `TEXT_BASE + 4*k` (R19). -/
def pcOf (p : Params) (k : Nat) : Word := p.textBase + BitVec.ofNat 64 (4 * k)

/-- `pc` (R19). -/
def State.pc (s : State) : Word := pcOf s.params s.idx

/-- The end of every instruction that transfers no control: `idx <- idx + 1`, `branchTaken <- false`
(00_scope R8, 10_state R21). -/
def State.advance (s : State) : State := { s with idx := s.idx + 1, branchTaken := false }

/-- A control transfer: `idx <- target`, `branchTaken <- true` (46_branch R230 R231). -/
def State.jump (s : State) (target : Nat) : State := { s with idx := target, branchTaken := true }

/-! ## Taking a fault (60_exceptions R274 R280) -/

/-- The source line of the instruction at `idx` (`I.line`); 0 when no instruction stands there, which no step
meets (log 29). -/
def State.currentLine (s : State) : Nat :=
  match s.program.records[s.idx]? with
  | some r => r.line
  | none => 0

/-- Fault entry (60_exceptions R280): the sticky error is set to the fault and the line of the faulting
instruction; nothing else changes, `idx` still points at that instruction, and control goes nowhere. -/
def State.takeFault (s : State) (f : Fault) : State :=
  { s with err := some { fault := f, line := s.currentLine } }

/-! ## Data memory (20_memory R42 R46 R47 R48) -/

/-- `InWindow(a)`: `DYN_DATA_BASE <= a < STACK_BASE`, unsigned (R42). -/
def inWindow (p : Params) (a : Word) : Bool :=
  decide (p.dynDataBase ≤ a) && decide (a < p.stackBase)

/-- `CheckRange(addr, n)` (R46): the fault raised, of the first byte if it is outside the window, else of the last
byte if that is. -/
def checkRange (p : Params) (a : Word) (n : Nat) : Option Fault :=
  let last := a + BitVec.ofNat 64 (n - 1)
  if inWindow p a = false then some (.segmentFault a)
  else if inWindow p last = false then some (.segmentFault last)
  else none

/-- `MemRead(addr, n)`, zero-extended to 64 bits (R47): it changes no state. -/
def State.memRead (s : State) (a : Word) (n : Nat) : Except Fault Word :=
  match checkRange s.params a n with
  | some f => .error f
  | none => .ok (fromBigEndian (s.mem.loadBytes a n))

/-- The state with another data memory. -/
def State.setMem (s : State) (m : Memory) : State := { s with mem := m }

/-- `MemWrite(addr, n, v)` of the low `n` bytes of `v` (R48): if the check raises, no byte is written. It does not
touch the monitor. -/
def State.memWrite (s : State) (a : Word) (n : Nat) (v : Word) : Except Fault State :=
  match checkRange s.params a n with
  | some f => .error f
  | none => .ok (s.setMem (s.mem.storeBytes a (toBigEndian v n)))

/-! ## The exclusive monitor (45_exclusive R220 R223) -/

/-- `mon <- m`. -/
def State.setMonitor (s : State) (m : Option Word) : State := { s with mon := m }

/-- `stxrSuccess <- b`. -/
def State.setStxrSuccess (s : State) (b : Bool) : State := { s with stxrSuccess := b }

/-- The `n` bytes from `ea` on and the tagged doubleword `[a, a+8)` overlap, as unbounded integers
(44_load_store R203). -/
def overlapsTag (a ea : Word) (n : Nat) : Bool :=
  decide (ea.toNat < a.toNat + 8) && decide (a.toNat < ea.toNat + n)

/-- The monitor after an ordinary store of `n` bytes at `ea` (44_load_store R203). -/
def monitorAfterStore (mon : Option Word) (ea : Word) (n : Nat) : Option Word :=
  match mon with
  | some a => if overlapsTag a ea n then none else some a
  | none => none

/-! ## The snapshot (10_state R26) -/

/-- `CPUSnapshot` of the register files and the flags. -/
def State.snapshot (s : State) : Snapshot where
  x := s.x
  d := s.d
  flags := s.flags

end Sys2Proof.Machine
end

