-- ==== Sys2Proof/Machine/Hazards.lean ====
section
/-!
DEFINITION. The pipeline registers and the hazard detectors (70_reset R329 to R341). They read the buffer after the
tick's shift (R339), and of each instruction only its group, the signals MemRead, FlagWrite and RegWrite, its
three register fields and the `taken` flag of its record (R331).
-/

namespace Sys2Proof.Machine

/-- The fields `src1`, `src2`, `dest` of each instruction group (R330). -/
structure RegisterFields where
  src1 : Option Reg
  src2 : Option Reg
  dest : Option Reg
deriving DecidableEq, Repr

/-- The register fields of an instruction: exactly the general registers it reads and writes (R330). -/
def registerFields (i : Instr) : RegisterFields :=
  match i with
  | .add d n m | .adds d n m | .sub d n m | .subs d n m
  | .and d n m | .ands d n m | .orr d n m | .eor d n m => ⟨some n, some m, some d⟩
  | .addi d n _ | .addis d n _ | .subi d n _ | .subis d n _
  | .andi d n _ | .andis d n _ | .orri d n _ | .eori d n _ => ⟨some n, none, some d⟩
  | .lsl d n _ | .lsr d n _ => ⟨some n, none, some d⟩
  | .movz d _ _ => ⟨none, none, some d⟩
  | .movk d _ _ => ⟨some d, none, some d⟩
  | .ldur t n _ | .ldursw t n _ | .ldurh t n _ | .ldurb t n _ => ⟨some n, none, some t⟩
  | .ldxr t n => ⟨some n, none, some t⟩
  | .stur t n _ | .sturw t n _ | .sturh t n _ | .sturb t n _ => ⟨some n, some t, none⟩
  | .stxr t st n => ⟨some n, some t, some st⟩
  | .cbz t _ | .cbnz t _ => ⟨some t, none, none⟩
  | .bEq _ | .bNe _ | .bHs _ | .bLo _ | .bHi _ | .bLs _ | .bGe _ | .bLt _ | .bGt _ | .bLe _
  | .bMi _ | .bPl _ | .bVs _ | .bVc _ => ⟨none, none, none⟩
  | .b _ => ⟨none, none, none⟩
  | .bl _ => ⟨none, none, some LR⟩
  | .br n => ⟨some n, none, none⟩
  | .fcmps _ _ | .fcmpd _ _ => ⟨none, none, none⟩

/-- What a pipeline register holds of its slot: empty for a bubble (R329). -/
def stageFields (slot : Option InFlight) : Option StageFields :=
  match slot with
  | none => none
  | some p =>
    let f := registerFields p.record.instr
    some { mnemonic := p.record.instr.mnemonic, ctrl := p.record.ctrl, src1 := f.src1, src2 := f.src2, dest := f.dest }

/-- A register field as the detectors see it: 31 is never a dependence (R330). -/
def dependence (r : Option Reg) : Option Reg :=
  match r with
  | some i => if i = XZR then none else some i
  | none => none

/-- `prodDest`: the destination of a producer, an instruction with RegWrite = 1 (R331). -/
def prodDest (stage : Option StageFields) : Option Reg :=
  match stage with
  | some f => if f.ctrl.regWrite = .on then dependence f.dest else none
  | none => none

/-- CBZ or CBNZ (R331 R332). -/
def isCompareBranch (m : Mnemonic) : Bool := decide (m = .cbz) || decide (m = .cbnz)

/-- One of the fourteen B.cond (R331 R333). -/
def isCondBranch (m : Mnemonic) : Bool := mnemonicsCondBranch.contains m

/-- The slot holds an instruction with FlagWrite = 1 (R333). -/
def setsFlags (stage : Option StageFields) : Bool :=
  match stage with
  | some f => decide (f.ctrl.flagWrite = .on)
  | none => false

/-- Conditional-branch register hazard (R332): ID holds CBZ or CBNZ with a register produced in EX or MEM. -/
def compareBranchHazard (ifid idex exmem : Option StageFields) : Bool :=
  match ifid with
  | some f =>
    isCompareBranch f.mnemonic && (dependence f.src1).isSome
      && (decide (prodDest idex = dependence f.src1) || decide (prodDest exmem = dependence f.src1))
  | none => false

/-- B.cond flag hazard (R333): ID holds a B.cond and EX or MEM a flag-setting instruction. -/
def flagHazard (ifid idex exmem : Option StageFields) : Bool :=
  match ifid with
  | some f => isCondBranch f.mnemonic && (setsFlags idex || setsFlags exmem)
  | none => false

/-- Load-use hazard (R334): EX holds a load whose destination is a source of the instruction in ID. -/
def loadUseHazard (ifid idex : Option StageFields) : Bool :=
  match ifid, idex with
  | some f, some g =>
    decide (g.ctrl.memRead = .on) && (dependence g.dest).isSome
      && (decide (f.src1 = dependence g.dest) || decide (f.src2 = dependence g.dest))
  | some _, none => false
  | none, some _ => false
  | none, none => false

/-- The forwarding diagnostic of one source of the instruction in EX (R336 R337): the producer in EXMEM, else the
producer in MEMWB. -/
def forwardOf (src : Option Reg) (exmem memwb : Option StageFields) : Forward :=
  if (prodDest exmem).isSome ∧ src = prodDest exmem then .exmem
  else if (prodDest memwb).isSome ∧ src = prodDest memwb then .memwb
  else .noForward

/-- `fwdA`: the diagnostic of `src1`; with a bubble in EX there is none (R337). -/
def forwardA (idex exmem memwb : Option StageFields) : Forward :=
  match idex with
  | some f => forwardOf f.src1 exmem memwb
  | none => .noForward

/-- `fwdB`: the diagnostic of `src2`. -/
def forwardB (idex exmem memwb : Option StageFields) : Forward :=
  match idex with
  | some f => forwardOf f.src2 exmem memwb
  | none => .noForward

/-- Control hazard (R340): ID holds a record whose branch was taken. -/
def controlHazard (slotID : Option InFlight) : Bool :=
  match slotID with
  | some p => p.taken
  | none => false

/-- The reason a stall is reported with: the first detector, in the order of R332 to R334, that holds (R335). -/
inductive StallReason where
  | compareBranch
  | flags
  | loadUse
deriving DecidableEq, Repr

/-- The diagnostic reason of the coming stall (R335). -/
def State.stallReason (s : State) : Option StallReason :=
  if s.hazCB then some .compareBranch
  else if s.hazFlag then some .flags
  else if s.hazLoad then some .loadUse
  else none

/-- The mnemonic a log line shows for a slot; `none` is "bubble", and a placeholder shows its mnemonic (R341). -/
def slotMnemonic (slot : Option InFlight) : Option Mnemonic :=
  match slot with
  | some p => some p.record.instr.mnemonic
  | none => none

/-- The tick's log line (R341). -/
def Buffer.logLine (b : Buffer) : TickLine where
  stageIF := slotMnemonic b.slotIF
  stageID := slotMnemonic b.slotID
  stageEX := slotMnemonic b.slotEX
  stageMEM := slotMnemonic b.slotMEM
  stageWB := slotMnemonic b.slotWB

end Sys2Proof.Machine
end

