-- ==== Sys2Proof/Machine/Flags.lean ====
section
/-!
DEFINITION. Flag generation (40_alu_flags R132 to R139), the floating compare (47_fp_compare R260 R261) and the
fourteen conditions (46_branch R243 to R256).
-/

namespace Sys2Proof.Machine

/-! ## Integer flags -/

/-- N: the sign bit of the result (R132). -/
def flagN (r : Word) : Bool := r.msb

/-- Z: the result is 0 (R133). -/
def flagZ (r : Word) : Bool := decide (r = 0#64)

/-- C of the ADD class: `msb((a & b) | ((a | b) & ~r))` (R134). -/
def flagC (a b r : Word) : Bool := ((a &&& b) ||| ((a ||| b) &&& ~~~r)).msb

/-- V of the ADD class: `msb((a ^ r) & (b ^ r))` (R135). -/
def flagV (a b r : Word) : Bool := ((a ^^^ r) &&& (b ^^^ r)).msb

/-- `AddFlags(a, b)`: the sum modulo `2^64` and its flags (R136). -/
def addFlags (a b : Word) : Word × Flags :=
  let r := a + b
  (r, { n := flagN r, z := flagZ r, c := flagC a b r, v := flagV a b r })

/-- `SubFlags(a, b) = AddFlags(a, neg(b))`, `neg` the arithmetic negation modulo `2^64` (R137; the spec's literal
reading, D6, log 8: C is 0 when `b = 0`, V is inverted when `b = 2^63`). -/
def subFlags (a b : Word) : Word × Flags := addFlags a (-b)

/-- `LogicFlags(r)`: N and Z from the result, C and V cleared (R138). -/
def logicFlags (r : Word) : Flags := { n := flagN r, z := flagZ r, c := false, v := false }

/-! ## Floating compare -/

/-- A NaN of an IEEE 754 format with `e` exponent bits over `f` fraction bits: the exponent field all ones, the
fraction field not zero (47_fp_compare R260). -/
def fpIsNaN (e f : Nat) (v : Nat) : Bool :=
  decide (v / 2 ^ f % 2 ^ e = 2 ^ e - 1) && decide (v % 2 ^ f ≠ 0)

/-- The magnitude of a bit pattern that is no NaN, in units of the format's smallest subnormal: the fraction for
exponent field 0, else `2^f + fraction` shifted by the exponent field less one. Infinity has the all-ones
exponent field and lies above every finite magnitude, as IEEE 754 orders it (R261). -/
def fpMagnitude (e f : Nat) (v : Nat) : Nat :=
  let ex := v / 2 ^ f % 2 ^ e
  let fr := v % 2 ^ f
  if ex = 0 then fr else (2 ^ f + fr) * 2 ^ (ex - 1)

/-- The value of a bit pattern that is no NaN, in the same units: the sign bit is above the exponent field. -/
def fpValue (e f : Nat) (v : Nat) : Int :=
  if v / 2 ^ (e + f) % 2 = 1 then -(fpMagnitude e f v : Int) else (fpMagnitude e f v : Int)

/-- `FCmpFlags(x, y)` on the bit patterns of one format (R261): unordered 0011, equal 0110, less 1000, greater
0010 as N Z C V (the ordered rows are the spec's from general knowledge, log 9). -/
def fCmpFlags (e f : Nat) (x y : Nat) : Flags :=
  if fpIsNaN e f x || fpIsNaN e f y then { n := false, z := false, c := true, v := true }
  else if fpValue e f x = fpValue e f y then { n := false, z := true, c := true, v := false }
  else if fpValue e f x < fpValue e f y then { n := true, z := false, c := false, v := false }
  else { n := false, z := false, c := true, v := false }

/-- The compare of two binary64 values: 11 exponent bits, 52 fraction bits (R260). -/
def fCmpDouble (x y : Word) : Flags := fCmpFlags 11 52 x.toNat y.toNat

/-- The compare of two binary32 values: 8 exponent bits, 23 fraction bits (R260). -/
def fCmpSingle (x y : BitVec 32) : Flags := fCmpFlags 8 23 x.toNat y.toNat

/-! ## Conditions -/

/-- The place of a flag setting in the truth table of `condLT`: `8N + 4Z + 2C + V` (log 7). -/
def Flags.number (f : Flags) : Nat := 8 * f.n.toNat + 4 * f.z.toNat + 2 * f.c.toNat + f.v.toNat

/-- `Holds(cc, N, Z, C, V)` (46_branch R243 to R256); LT is the parameter `condLT` (R250). -/
def condHolds (lt : BitVec 16) (f : Flags) (cc : Cond) : Bool :=
  match cc with
  | .eq => f.z
  | .ne => !f.z
  | .hs => f.c
  | .lo => !f.c
  | .hi => f.c && !f.z
  | .ls => !(f.c && !f.z)
  | .ge => f.n == f.v
  | .lt => lt.getLsbD (Flags.number f)
  | .gt => !f.z && (f.n == f.v)
  | .le => !(!f.z && (f.n == f.v))
  | .mi => f.n
  | .pl => !f.n
  | .vs => f.v
  | .vc => !f.v

end Sys2Proof.Machine
end

