-- ==== Sys2Proof/Machine/Operands.lean ====
section
/-!
DEFINITION. The operand forms: immediates (30_encoding R90), base-plus-offset addresses with the stack-pointer check
(20_memory R52, 44_load_store R200 R201), and the shifted wide immediates (43_shift_wide R192 R193).
-/

namespace Sys2Proof.Machine

/-- A 12-bit immediate operand: zero-extended, never sign-extended (30_encoding R90, 40_alu_flags R140). -/
def immOperand (imm : Nat) : Word := BitVec.ofNat 64 imm

/-- The wide immediate in its quadrant: `zext_64(imm) << q` (43_shift_wide R192). -/
def wideOperand (imm q : Nat) : Word := BitVec.ofNat 64 imm <<< q

/-- The bits of the quadrant that MOVK replaces: `0xFFFF << q` (43_shift_wide R193). -/
def wideMask (q : Nat) : Word := 0xFFFF#64 <<< q

/-- `EA(n, off) = (X[n] + sext_64(off)) mod 2^64` (44_load_store R200). -/
def effectiveAddress (s : State) (n : Reg) (off : Int) : Word := s.readX n + BitVec.ofInt 64 off

/-- Step 1 of every memory instruction: a base register 28 that holds no multiple of 16 raises SPAlignment with
its value (20_memory R52, 44_load_store R201). -/
def baseFault (s : State) (n : Reg) : Option Fault :=
  if n = SP ∧ (s.readX SP).toNat % 16 ≠ 0 then some (.spAlignment (s.readX SP)) else none

/-- Sign extension of a word load: `sext_64` of the low 32 bits (44_load_store R205). -/
def signExtendWord (v : Word) : Word := (v.extractLsb' 0 32).signExtend 64

/-- The fault BR raises for a target address: PCAlignment first, then SegmentFault outside the text segment,
unsigned (46_branch R234, 60_exceptions R276). -/
def branchTargetFault (p : Params) (a : Word) : Option Fault :=
  if a.toNat % 4 ≠ 0 then some (.pcAlignment a)
  else if a < p.textBase ∨ p.textLimit ≤ a then some (.segmentFault a)
  else none

/-- The instruction index of a text address: `(a - TEXT_BASE) / 4` (46_branch R234). -/
def indexOfAddress (p : Params) (a : Word) : Nat := (a - p.textBase).toNat / 4

end Sys2Proof.Machine
end

