-- ==== Sys2Proof/Machine/Shapes.lean ====
section
/-!
DEFINITION. The shapes shared by the meanings (40_alu_flags R131, 44_load_store R201, 46_branch R230): read the
operands, compute, write the destination unless it is register 31, write the flags if the instruction sets them,
set `idx` and `branchTaken`.
-/

namespace Sys2Proof.Machine

/-- What a meaning answers. -/
abbrev Result := Host.Outcome State Fault Refusal

/-- The end of an instruction that writes register `d` and no flag (R131). -/
def writeBack (d : Reg) (r : Word) (s : State) : Result := .next (s.writeX d r).advance

/-- The end of an instruction that writes register `d` and all four flags (R131). -/
def writeBackFlags (d : Reg) (r : Word) (f : Flags) (s : State) : Result :=
  .next ((s.writeX d r).setFlags f).advance

/-- A load of `size` bytes, extended by `ext`, in the step order of 44_load_store R201: stack-pointer check, address,
range check and access, write-back. A load to register 31 performs all but the write (R202). -/
def loadRegister (t n : Reg) (off : Int) (size : Nat) (ext : Word → Word) (s : State) : Result :=
  match baseFault s n with
  | some f => .next (s.takeFault f)
  | none =>
    match s.memRead (effectiveAddress s n off) size with
    | .error f => .next (s.takeFault f)
    | .ok v => .next (s.writeX t (ext v)).advance

/-- A store of the low `size` bytes of register `t`, in the step order of 44_load_store R201, with the monitor
update of R203 after the write. -/
def storeRegister (t n : Reg) (off : Int) (size : Nat) (s : State) : Result :=
  match baseFault s n with
  | some f => .next (s.takeFault f)
  | none =>
    match s.memWrite (effectiveAddress s n off) size (s.readX t) with
    | .error f => .next (s.takeFault f)
    | .ok s' =>
      .next (s'.setMonitor (monitorAfterStore s.mon (effectiveAddress s n off) size)).advance

/-- A branch to a label taken when `taken` holds, else the next instruction (46_branch R235 R236 R237). -/
def branchIf (taken : Bool) (target : Nat) (s : State) : Result :=
  if taken then .next (s.jump target) else .next s.advance

/-- B.cond: branch when the condition holds of the flags (46_branch R236). -/
def branchCond (cc : Cond) (target : Nat) (s : State) : Result :=
  branchIf (condHolds s.params.condLT s.flags cc) target s

end Sys2Proof.Machine
end

