-- ==== Sys2Proof/Machine/Arith.lean ====
section
/-!
DEFINITION. Integer add and subtract (41_arith R150 to R157).
-/

namespace Sys2Proof.Machine

/-- ADD (41_arith R150): `X[d] <- X[n] + X[m]`; no flag written. -/
def execAdd (d n m : Reg) (s : State) : Result :=
  writeBack d (addFlags (s.readX n) (s.readX m)).1 s

/-- ADDS (41_arith R151): `X[d] <- X[n] + X[m]`; N, Z, C, V written. -/
def execAdds (d n m : Reg) (s : State) : Result :=
  writeBackFlags d (addFlags (s.readX n) (s.readX m)).1 (addFlags (s.readX n) (s.readX m)).2 s

/-- ADDI (41_arith R152): `X[d] <- X[n] + zext(imm)`; no flag written. -/
def execAddi (d n : Reg) (imm : Nat) (s : State) : Result :=
  writeBack d (addFlags (s.readX n) (immOperand imm)).1 s

/-- ADDIS (41_arith R153): `X[d] <- X[n] + zext(imm)`; N, Z, C, V written. -/
def execAddis (d n : Reg) (imm : Nat) (s : State) : Result :=
  writeBackFlags d (addFlags (s.readX n) (immOperand imm)).1 (addFlags (s.readX n) (immOperand imm)).2 s

/-- SUB (41_arith R154): `X[d] <- X[n] - X[m]`; no flag written. -/
def execSub (d n m : Reg) (s : State) : Result :=
  writeBack d (subFlags (s.readX n) (s.readX m)).1 s

/-- SUBS (41_arith R155): `X[d] <- X[n] - X[m]`; N, Z, C, V written. -/
def execSubs (d n m : Reg) (s : State) : Result :=
  writeBackFlags d (subFlags (s.readX n) (s.readX m)).1 (subFlags (s.readX n) (s.readX m)).2 s

/-- SUBI (41_arith R156): `X[d] <- X[n] - zext(imm)`; no flag written. -/
def execSubi (d n : Reg) (imm : Nat) (s : State) : Result :=
  writeBack d (subFlags (s.readX n) (immOperand imm)).1 s

/-- SUBIS (41_arith R157): `X[d] <- X[n] - zext(imm)`; N, Z, C, V written. -/
def execSubis (d n : Reg) (imm : Nat) (s : State) : Result :=
  writeBackFlags d (subFlags (s.readX n) (immOperand imm)).1 (subFlags (s.readX n) (immOperand imm)).2 s

end Sys2Proof.Machine
end

