-- ==== Sys2Proof/Machine/Branch.lean ====
section
/-!
DEFINITION. Control transfer (46_branch R230 to R256).
-/

namespace Sys2Proof.Machine

/-- B (46_branch R231): `idx <- target`. -/
def execB (target : Nat) (s : State) : Result := branchIf true target s

/-- BL (46_branch R233): the program counter of the next instruction in program order goes to register 30, then
`idx <- target` (D15, log 20). -/
def execBl (target : Nat) (s : State) : Result :=
  .next ((s.writeX LR (pcOf s.params (s.idx + 1))).jump target)

/-- BR (46_branch R234): to the instruction whose address `X[n]` holds; PCAlignment, then SegmentFault, in that
order. -/
def execBr (n : Reg) (s : State) : Result :=
  match branchTargetFault s.params (s.readX n) with
  | some f => .next (s.takeFault f)
  | none => .next (s.jump (indexOfAddress s.params (s.readX n)))

/-- CBZ (46_branch R235): branch when all 64 bits of `X[t]` are 0. -/
def execCbz (t : Reg) (target : Nat) (s : State) : Result := branchIf (decide (s.readX t = 0#64)) target s

/-- CBNZ (46_branch R237): branch when `X[t]` is not 0. -/
def execCbnz (t : Reg) (target : Nat) (s : State) : Result := branchIf (decide (s.readX t ≠ 0#64)) target s

/-- B.EQ (46_branch R236 R243): branch when `Z = 1`. -/
def execBEq (target : Nat) (s : State) : Result := branchCond .eq target s

/-- B.NE (46_branch R236 R244): branch when `Z = 0`. -/
def execBNe (target : Nat) (s : State) : Result := branchCond .ne target s

/-- B.HS (46_branch R236 R245): branch when `C = 1`. -/
def execBHs (target : Nat) (s : State) : Result := branchCond .hs target s

/-- B.LO (46_branch R236 R246): branch when `C = 0`. -/
def execBLo (target : Nat) (s : State) : Result := branchCond .lo target s

/-- B.HI (46_branch R236 R247): branch when `C = 1 and Z = 0`. -/
def execBHi (target : Nat) (s : State) : Result := branchCond .hi target s

/-- B.LS (46_branch R236 R248): branch when `not (C = 1 and Z = 0)`. -/
def execBLs (target : Nat) (s : State) : Result := branchCond .ls target s

/-- B.GE (46_branch R236 R249): branch when `N = V`. -/
def execBGe (target : Nat) (s : State) : Result := branchCond .ge target s

/-- B.LT (46_branch R236 R250): branch when `condLT(N, Z, C, V)`. -/
def execBLt (target : Nat) (s : State) : Result := branchCond .lt target s

/-- B.GT (46_branch R236 R251): branch when `Z = 0 and N = V`. -/
def execBGt (target : Nat) (s : State) : Result := branchCond .gt target s

/-- B.LE (46_branch R236 R252): branch when `not (Z = 0 and N = V)`. -/
def execBLe (target : Nat) (s : State) : Result := branchCond .le target s

/-- B.MI (46_branch R236 R253): branch when `N = 1`. -/
def execBMi (target : Nat) (s : State) : Result := branchCond .mi target s

/-- B.PL (46_branch R236 R254): branch when `N = 0`. -/
def execBPl (target : Nat) (s : State) : Result := branchCond .pl target s

/-- B.VS (46_branch R236 R255): branch when `V = 1`. -/
def execBVs (target : Nat) (s : State) : Result := branchCond .vs target s

/-- B.VC (46_branch R236 R256): branch when `V = 0`. -/
def execBVc (target : Nat) (s : State) : Result := branchCond .vc target s

end Sys2Proof.Machine
end

