-- ==== Sys2Proof/Machine/Exclusive.lean ====
section
/-!
DEFINITION. Exclusive access: LDXR and STXR (45_exclusive R220 to R223).
-/

namespace Sys2Proof.Machine

/-- LDXR (45_exclusive R221): the doubleword at `X[n]` is loaded and its address becomes the tag; with
destination 31 the tag is still set. A fault leaves the monitor as it was. -/
def execLdxr (t n : Reg) (s : State) : Result :=
  match baseFault s n with
  | some f => .next (s.takeFault f)
  | none =>
    match s.memRead (s.readX n) 8 with
    | .error f => .next (s.takeFault f)
    | .ok v => .next ((s.setMonitor (some (s.readX n))).writeX t v).advance

/-- STXR (45_exclusive R222): if the tag is the address, `X[t]` (read before `X[st]` is written) is stored, the tag is
cleared and the status is 0; else nothing is accessed or range-checked, the tag stays (D11, log 17) and the status
is 1. The outcome is also published in `stxrSuccess`. -/
def execStxr (t st n : Reg) (s : State) : Result :=
  match baseFault s n with
  | some f => .next (s.takeFault f)
  | none =>
    if s.mon = some (s.readX n) then
      match s.memWrite (s.readX n) 8 (s.readX t) with
      | .error f => .next (s.takeFault f)
      | .ok s' => .next (((s'.setMonitor none).setStxrSuccess true).writeX st 0#64).advance
    else .next ((s.setStxrSuccess false).writeX st 1#64).advance

end Sys2Proof.Machine
end

