-- ==== Sys2Proof/Machine/FloatCompare.lean ====
section
/-!
DEFINITION. Floating-point compare (47_fp_compare R260 to R263).
-/

namespace Sys2Proof.Machine

/-- FCMPS (47_fp_compare R262): the flags of the compare of `S[n]` with `S[m]`. -/
def execFcmps (n m : FReg) (s : State) : Result :=
  .next (s.setFlags (fCmpSingle (s.readS n) (s.readS m))).advance

/-- FCMPD (47_fp_compare R263): the flags of the compare of `D[n]` with `D[m]`. -/
def execFcmpd (n m : FReg) (s : State) : Result :=
  .next (s.setFlags (fCmpDouble (s.readD n) (s.readD m))).advance

end Sys2Proof.Machine
end

