-- ==== Sys2Proof/Machine/LoadStore.lean ====
section
/-!
DEFINITION. The ordinary loads and stores (44_load_store R200 to R211).
-/

namespace Sys2Proof.Machine

/-- LDUR (44_load_store R204): `X[t] <-` the doubleword. -/
def execLdur (t n : Reg) (off : Int) (s : State) : Result := loadRegister t n off 8 id s

/-- LDURSW (44_load_store R205): `X[t] <-` the word, sign-extended. -/
def execLdursw (t n : Reg) (off : Int) (s : State) : Result := loadRegister t n off 4 signExtendWord s

/-- LDURH (44_load_store R206): `X[t] <-` the halfword, zero-extended. -/
def execLdurh (t n : Reg) (off : Int) (s : State) : Result := loadRegister t n off 2 id s

/-- LDURB (44_load_store R207): `X[t] <-` the byte, zero-extended. -/
def execLdurb (t n : Reg) (off : Int) (s : State) : Result := loadRegister t n off 1 id s

/-- STUR (44_load_store R208): the low 8 bytes of `X[t]` go to memory, most significant byte first. -/
def execStur (t n : Reg) (off : Int) (s : State) : Result := storeRegister t n off 8 s

/-- STURW (44_load_store R209): the low 4 bytes of `X[t]` go to memory, most significant byte first. -/
def execSturw (t n : Reg) (off : Int) (s : State) : Result := storeRegister t n off 4 s

/-- STURH (44_load_store R210): the low 2 bytes of `X[t]` go to memory, most significant byte first. -/
def execSturh (t n : Reg) (off : Int) (s : State) : Result := storeRegister t n off 2 s

/-- STURB (44_load_store R211): the low 1 byte of `X[t]` go to memory, most significant byte first. -/
def execSturb (t n : Reg) (off : Int) (s : State) : Result := storeRegister t n off 1 s

end Sys2Proof.Machine
end

