-- ==== Sys2Proof/Machine/Logical.lean ====
section
/-!
DEFINITION. The logical instructions (42_logical R170 to R177).
-/

namespace Sys2Proof.Machine

/-- AND (42_logical R170): `X[d] <- X[n] & X[m]`; no flag written. -/
def execAnd (d n m : Reg) (s : State) : Result :=
  writeBack d (s.readX n &&& s.readX m) s

/-- ANDS (42_logical R171): `X[d] <- X[n] & X[m]`; N and Z from the result, C and V cleared. -/
def execAnds (d n m : Reg) (s : State) : Result :=
  writeBackFlags d (s.readX n &&& s.readX m) (logicFlags (s.readX n &&& s.readX m)) s

/-- ANDI (42_logical R172): `X[d] <- X[n] & zext(imm)`; no flag written. -/
def execAndi (d n : Reg) (imm : Nat) (s : State) : Result :=
  writeBack d (s.readX n &&& immOperand imm) s

/-- ANDIS (42_logical R173): `X[d] <- X[n] & zext(imm)`; N and Z from the result, C and V cleared. -/
def execAndis (d n : Reg) (imm : Nat) (s : State) : Result :=
  writeBackFlags d (s.readX n &&& immOperand imm) (logicFlags (s.readX n &&& immOperand imm)) s

/-- ORR (42_logical R174): `X[d] <- X[n] | X[m]`; no flag written. -/
def execOrr (d n m : Reg) (s : State) : Result :=
  writeBack d (s.readX n ||| s.readX m) s

/-- ORRI (42_logical R175): `X[d] <- X[n] | zext(imm)`; no flag written. -/
def execOrri (d n : Reg) (imm : Nat) (s : State) : Result :=
  writeBack d (s.readX n ||| immOperand imm) s

/-- EOR (42_logical R176): `X[d] <- X[n] ^ X[m]`; no flag written. -/
def execEor (d n m : Reg) (s : State) : Result :=
  writeBack d (s.readX n ^^^ s.readX m) s

/-- EORI (42_logical R177): `X[d] <- X[n] ^ zext(imm)`; no flag written. -/
def execEori (d n : Reg) (imm : Nat) (s : State) : Result :=
  writeBack d (s.readX n ^^^ immOperand imm) s

end Sys2Proof.Machine
end

