-- ==== Sys2Proof/Machine/ShiftWide.lean ====
section
/-!
DEFINITION. The shifts and the wide moves (43_shift_wide R190 to R193).
-/

namespace Sys2Proof.Machine

/-- LSL (43_shift_wide R190): `X[d] <- X[n] << sh`, bits shifted out are lost. -/
def execLsl (d n : Reg) (sh : Nat) (s : State) : Result := writeBack d (s.readX n <<< sh) s

/-- LSR (43_shift_wide R191): `X[d] <- X[n] >> sh`, zeros enter at the top. -/
def execLsr (d n : Reg) (sh : Nat) (s : State) : Result := writeBack d (s.readX n >>> sh) s

/-- MOVZ (43_shift_wide R192): `X[d] <- zext(imm) << q`, the other 48 bits are zero. -/
def execMovz (d : Reg) (imm q : Nat) (s : State) : Result := writeBack d (wideOperand imm q) s

/-- MOVK (43_shift_wide R193): the quadrant at `q` of `X[d]` becomes `imm`, the other 48 bits keep their value. -/
def execMovk (d : Reg) (imm q : Nat) (s : State) : Result :=
  writeBack d ((s.readX d &&& ~~~(wideMask q)) ||| wideOperand imm q) s

end Sys2Proof.Machine
end

