-- ==== Sys2Proof/Machine/Dispatch.lean ====
section
/-!
DEFINITION. The dispatch: mnemonic to handler, one arm per constructor of `Instr` (40_alu_flags R130).
-/

namespace Sys2Proof.Machine
open Sys2Proof

def exec (i : Instr) (s : State) : Host.Outcome State Fault Refusal :=
  match i with
  | .add d n m => Sys2Proof.Machine.execAdd d n m s
  | .adds d n m => Sys2Proof.Machine.execAdds d n m s
  | .addi d n imm => Sys2Proof.Machine.execAddi d n imm s
  | .addis d n imm => Sys2Proof.Machine.execAddis d n imm s
  | .sub d n m => Sys2Proof.Machine.execSub d n m s
  | .subs d n m => Sys2Proof.Machine.execSubs d n m s
  | .subi d n imm => Sys2Proof.Machine.execSubi d n imm s
  | .subis d n imm => Sys2Proof.Machine.execSubis d n imm s
  | .and d n m => Sys2Proof.Machine.execAnd d n m s
  | .ands d n m => Sys2Proof.Machine.execAnds d n m s
  | .andi d n imm => Sys2Proof.Machine.execAndi d n imm s
  | .andis d n imm => Sys2Proof.Machine.execAndis d n imm s
  | .orr d n m => Sys2Proof.Machine.execOrr d n m s
  | .orri d n imm => Sys2Proof.Machine.execOrri d n imm s
  | .eor d n m => Sys2Proof.Machine.execEor d n m s
  | .eori d n imm => Sys2Proof.Machine.execEori d n imm s
  | .lsl d n sh => Sys2Proof.Machine.execLsl d n sh s
  | .lsr d n sh => Sys2Proof.Machine.execLsr d n sh s
  | .movz d imm q => Sys2Proof.Machine.execMovz d imm q s
  | .movk d imm q => Sys2Proof.Machine.execMovk d imm q s
  | .ldur t n off => Sys2Proof.Machine.execLdur t n off s
  | .ldursw t n off => Sys2Proof.Machine.execLdursw t n off s
  | .ldurh t n off => Sys2Proof.Machine.execLdurh t n off s
  | .ldurb t n off => Sys2Proof.Machine.execLdurb t n off s
  | .stur t n off => Sys2Proof.Machine.execStur t n off s
  | .sturw t n off => Sys2Proof.Machine.execSturw t n off s
  | .sturh t n off => Sys2Proof.Machine.execSturh t n off s
  | .sturb t n off => Sys2Proof.Machine.execSturb t n off s
  | .ldxr t n => Sys2Proof.Machine.execLdxr t n s
  | .stxr t st n => Sys2Proof.Machine.execStxr t st n s
  | .b target => Sys2Proof.Machine.execB target s
  | .bl target => Sys2Proof.Machine.execBl target s
  | .br n => Sys2Proof.Machine.execBr n s
  | .cbz t target => Sys2Proof.Machine.execCbz t target s
  | .cbnz t target => Sys2Proof.Machine.execCbnz t target s
  | .bEq target => Sys2Proof.Machine.execBEq target s
  | .bNe target => Sys2Proof.Machine.execBNe target s
  | .bHs target => Sys2Proof.Machine.execBHs target s
  | .bLo target => Sys2Proof.Machine.execBLo target s
  | .bHi target => Sys2Proof.Machine.execBHi target s
  | .bLs target => Sys2Proof.Machine.execBLs target s
  | .bGe target => Sys2Proof.Machine.execBGe target s
  | .bLt target => Sys2Proof.Machine.execBLt target s
  | .bGt target => Sys2Proof.Machine.execBGt target s
  | .bLe target => Sys2Proof.Machine.execBLe target s
  | .bMi target => Sys2Proof.Machine.execBMi target s
  | .bPl target => Sys2Proof.Machine.execBPl target s
  | .bVs target => Sys2Proof.Machine.execBVs target s
  | .bVc target => Sys2Proof.Machine.execBVc target s
  | .fcmps n m => Sys2Proof.Machine.execFcmps n m s
  | .fcmpd n m => Sys2Proof.Machine.execFcmpd n m s

end Sys2Proof.Machine
end

