-- ==== Sys2Proof/Machine/SingleCycle.lean ====
section
/-!
DEFINITION. The single-cycle engine: `executeInstruction` (70_reset R305) and `run` (R306).
-/

namespace Sys2Proof.Machine

/-- `prog[idx]`, absent when `idx >= N` (10_state R24): fetch never faults. -/
def State.fetched (s : State) : Option Record := s.program.records[s.idx]?

/-- One step of the single-cycle engine (R305): nothing after a fault (60_exceptions R281) or past the end of the
program (10_state R24, log 21), else the rule of the fetched instruction. -/
def executeInstruction (s : State) : Result :=
  if s.err.isSome then .next s
  else
    match s.fetched with
    | none => .next s
    | some r => exec r.instr s

/-- The run has ended or faulted: no further step changes anything (R306, 60_exceptions R281). -/
def State.halted (s : State) : Bool := s.err.isSome || decide (s.program.records.length ≤ s.idx)

/-- `run` under fuel: `executeInstruction` until the run ends, faults, or the fuel is out, which is neither
success nor fault (R306; 93 U21). -/
def run : Nat → State → Result
  | 0, s => .next s
  | fuel + 1, s =>
    if s.halted then .next s
    else
      match executeInstruction s with
      | .next s' => run fuel s'
      | .fault f => .fault f
      | .refused r => .refused r

end Sys2Proof.Machine
end

