-- ==== Sys2Proof/Machine/Pipeline.lean ====
section
/-!
DEFINITION. The pipelined engine's tick, `clock` (70_reset R320 to R342). The CPU fields of the state are the front
end; the tick decides what enters the buffer, shifts, retires, and recomputes the pipeline registers and the
hazard flags.
-/

namespace Sys2Proof.Machine

/-- The buffer after a shift that puts `entry` into IF (R323 R324 R326). -/
def Buffer.shiftIn (b : Buffer) (entry : Option InFlight) : Buffer where
  slotIF := entry
  slotID := b.slotIF
  slotEX := b.slotID
  slotMEM := b.slotEX
  slotWB := b.slotMEM

/-- The buffer after a stall tick: IF and ID hold, a bubble enters EX, the rest moves on (R325). -/
def Buffer.stalled (b : Buffer) : Buffer where
  slotIF := b.slotIF
  slotID := b.slotID
  slotEX := none
  slotMEM := b.slotEX
  slotWB := b.slotMEM

/-- The buffer after a fetch: the new record enters IF; if a flush was flagged, IF's old occupant becomes a bubble
as it moves to ID (R327). -/
def Buffer.fetchIn (b : Buffer) (flush : Bool) (entry : InFlight) : Buffer where
  slotIF := some entry
  slotID := if flush then none else b.slotIF
  slotEX := b.slotID
  slotMEM := b.slotEX
  slotWB := b.slotMEM

/-- What `vis` becomes when the slot-4 occupant leaves WB: its after-snapshot; a bubble changes nothing (R328). -/
def retire (vis : Snapshot) (slotWB : Option InFlight) : Snapshot :=
  match slotWB with
  | some o => o.after
  | none => vis

/-- Steps 5 to 7 of a tick that shifts (R323): retire the old WB, take the new buffer, recompute the four pipeline
registers (R329), then the hazard flags and diagnostics (R332 to R340), and append the log line (R341). -/
def State.shiftTo (s : State) (b : Buffer) : State :=
  let ifid := stageFields b.slotID
  let idex := stageFields b.slotEX
  let exmem := stageFields b.slotMEM
  let memwb := stageFields b.slotWB
  let hazCB := compareBranchHazard ifid idex exmem
  let hazFlag := flagHazard ifid idex exmem
  let hazLoad := loadUseHazard ifid idex
  { s with
    vis := retire s.vis s.buf.slotWB
    buf := b
    ifid := ifid
    idex := idex
    exmem := exmem
    memwb := memwb
    hazCB := hazCB
    hazFlag := hazFlag
    hazLoad := hazLoad
    stallNext := hazCB || hazFlag || hazLoad
    flushNext := controlHazard b.slotID
    fwdA := forwardA idex exmem memwb
    fwdB := forwardB idex exmem memwb
    tickLog := s.tickLog ++ [b.logLine] }

/-- The branch-delay placeholder after the taken branch `p` (R326): the instruction after the branch in program
order, not executed, both snapshots the front end's; a bubble when the branch was the last instruction. -/
def placeholder (s : State) (p : InFlight) : Option InFlight :=
  let k := indexOfAddress s.params p.fetchPC + 1
  match s.program.records[k]? with
  | none => none
  | some r => some { record := r, before := s.snapshot, after := s.snapshot, fetchPC := pcOf s.params k, taken := false }

/-- The previously fetched instruction, when it was a taken branch (R326). -/
def previousTaken (b : Buffer) : Option InFlight :=
  match b.slotIF with
  | some p => if p.taken then some p else none
  | none => none

/-- Step 4 (R327): fetch and fully execute the next instruction `r` on the front end. If that raises a fault, `err` is
set and nothing else changes (R342). -/
def fetchTick (s : State) (r : Record) : Result :=
  match executeInstruction s with
  | .next fe =>
    if fe.err.isSome then .next fe
    else
      .next (fe.shiftTo (s.buf.fetchIn s.flushNext
        { record := r, before := s.snapshot, after := fe.snapshot, fetchPC := s.pc, taken := fe.branchTaken }))
  | .fault f => .fault f
  | .refused x => .refused x

/-- One clock tick (R323). -/
def clock (s : State) : Result :=
  if s.err.isSome then .next s
  else
    match s.fetched with
    | none =>
      if s.buf = Buffer.empty then .next s
      else if s.stallNext then .next (s.shiftTo s.buf.stalled)
      else .next (s.shiftTo (s.buf.shiftIn none))
    | some r =>
      if s.stallNext then .next (s.shiftTo s.buf.stalled)
      else
        match previousTaken s.buf with
        | some p => .next (s.shiftTo (s.buf.shiftIn (placeholder s p)))
        | none => fetchTick s r

end Sys2Proof.Machine
end

