-- ==== Sys2Proof/Machine/Loader.lean ====
section
/-!
DEFINITION. The host's commands (10_state R29): load a program, and drive it with one of the two engines. The load is
the only reset (70_reset R300 R301).
-/

namespace Sys2Proof.Machine

/-- Step 3 of a load: the block in its reset state with the program, refused when the parameters break their
constraints (70_reset R301 R302; 93 U23). -/
def loadProgram (l : Launch) (e : Engine) (p : Program) : Result :=
  if l.legal p.records.length then .next (State.loaded l e p) else .refused .illegalLaunch

/-- The block after a load that found compile errors: it has no program, so every step does nothing (70_reset
R301; log 26). That "no program" is the empty program, so that `State.succeeded` holds of this state, is the model's
choice (log 39): R301 gives the block no N, and does not say whether a run has ended. That the block keeps the engine of
the failed load, and so refuses the other engine's calls, is the model's choice too (log 40). -/
def State.withoutProgram (l : Launch) (e : Engine) (errors : List CompileError) : State :=
  { State.loaded l e Program.empty with compileErrors := errors }

/-- Load a program text (70_reset R301). -/
def loadText (l : Launch) (e : Engine) (text : Text) : Result :=
  match compile (linesOf text) with
  | .ok p => loadProgram l e p
  | .error errors => if l.legal 0 then .next (State.withoutProgram l e errors) else .refused .illegalLaunch

/-- The instructions of a word program from index `i` on, or the first word that is none (30_encoding R93). -/
def decodeWordsFrom (i : Nat) : List Code → Except (Nat × Reject) (List Instr)
  | [] => .ok []
  | w :: ws =>
    match decode i w with
    | .error why => .error (i, why)
    | .ok instr =>
      match decodeWordsFrom (i + 1) ws with
      | .error x => .error x
      | .ok rest => .ok (instr :: rest)

/-- The records of a list of instructions, on lines counted from `line`. Words have no source text and 60_exceptions R274
gives lines for program texts only: that a word's line is its index plus 1 is the model's choice (log 38). -/
def bindFrom (line : Nat) : List Instr → List Record
  | [] => []
  | i :: is => Record.bind i line :: bindFrom (line + 1) is

/-- Load a word program: "a word-level loader refuses the whole program" when a word is no instruction (30_encoding
R93), or when a branch target is no instruction of it (R77). Its lines are counted from 1 (the model's choice, log
38). -/
def loadWords (l : Launch) (e : Engine) (ws : List Code) : Result :=
  match decodeWordsFrom 0 ws with
  | .error (i, why) => .refused (.notAnInstruction i why)
  | .ok is =>
    if is.all (Instr.targetOk is.length) then
      loadProgram l e { records := bindFrom 1 is, branchTable := [] }
    else .refused .labelOutsideProgram

/-- What the host can do (10_state R29). -/
inductive Command where
  /-- Load a program text for an engine. -/
  | loadText (launch : Launch) (engine : Engine) (text : Text)
  /-- Load a word program for an engine. -/
  | loadWords (launch : Launch) (engine : Engine) (words : List Code)
  /-- One instruction on the single-cycle engine. -/
  | executeInstruction
  /-- The single-cycle engine until the run ends, under fuel. -/
  | run (fuel : Nat)
  /-- One tick of the pipelined engine. -/
  | clock
deriving DecidableEq, Repr

/-- One host command. "Mixing `executeInstruction` and `clock` calls on one loaded program" is refused (R29, D43). The
model refuses it of a block without a program too, by the engine of the load that failed, or at reset the single-cycle
one (the model's choice, log 40). -/
def State.command (s : State) (c : Command) : Result :=
  match c with
  | .loadText l e text => loadText l e text
  | .loadWords l e ws => loadWords l e ws
  | .executeInstruction =>
    match s.engine with
    | .singleCycle => Sys2Proof.Machine.executeInstruction s
    | .pipelined => .refused .mixedEngines
  | .run fuel =>
    match s.engine with
    | .singleCycle => Sys2Proof.Machine.run fuel s
    | .pipelined => .refused .mixedEngines
  | .clock =>
    match s.engine with
    | .singleCycle => .refused .mixedEngines
    | .pipelined => Sys2Proof.Machine.clock s

end Sys2Proof.Machine
end

