-- ==== Sys2Proof/Machine/Fetch.lean ====
section
/-!
DEFINITION. Placing one word where the next step fetches. The machine does not fetch words at a program counter: it
runs a list of records that a load makes (10_state R24, 70_reset R301). `State.placeWord` stands for a load of a
program that has the word's instruction at the current index (log 5).
-/

namespace Sys2Proof.Machine

/-- The record list with `r` at index `k`; a list that is too short is filled up with copies of `r`. -/
def placeRecord (rs : List Record) (k : Nat) (r : Record) : List Record :=
  if k < rs.length then rs.set k r else rs ++ List.replicate (k + 1 - rs.length) r

/-- The state with the word's instruction at `idx`, ready for the next step to fetch it: no sticky error, and in the
buffer neither a pending stall nor a taken branch in IF. A word that is no instruction leaves no program
(30_encoding R93). The record's line is `idx + 1` (the model's choice, log 38). -/
def State.placeWord (s : State) (w : Code) : State :=
  match decode s.idx w with
  | .ok i =>
    { s with
      program := { s.program with records := placeRecord s.program.records s.idx (Record.bind i (s.idx + 1)) }
      err := none
      stallNext := false
      buf := match previousTaken s.buf with
        | some _ => { s.buf with slotIF := none }
        | none => s.buf }
  | .error _ => { s with program := Program.empty }

end Sys2Proof.Machine
end

