-- ==== Sys2Proof/Machine/Step.lean ====
section
/-!
DEFINITION. The machine's step: one call of the step function of the engine the program was loaded for (00_scope R4,
70_reset R305 R323; log 4).
-/

namespace Sys2Proof.Machine

/-- One step: an instruction of the single-cycle engine, or a tick of the pipelined engine. -/
def step (s : State) : Host.Outcome State Fault Refusal :=
  match s.engine with
  | .singleCycle => executeInstruction s
  | .pipelined => clock s

/-- The state with the instruction whose bits are `w` placed where the next step fetches (log 5). Bits from `nbits` on
are zero; no instruction is longer than 32 bits. -/
def State.withFetchWord (s : State) (nbits w : Nat) : State :=
  s.placeWord (BitVec.ofNat 32 (w % 2 ^ nbits))

end Sys2Proof.Machine
end

