-- ==== Sys2Proof/Machine/Observe.lean ====
section
/-!
DEFINITION. The observation interface: the read-only accessors of 10_state R28. In pipelined mode the register and
flag accessors return the visible snapshot; the index, branch-taken and STXR-success accessors return the front
end's values (70_reset R320).
-/

namespace Sys2Proof.Machine

/-- The snapshot the register and flag accessors show (R28). -/
def State.shown (s : State) : Snapshot :=
  match s.engine with
  | .singleCycle => s.snapshot
  | .pipelined => s.vis

/-- General register `i` of a snapshot: register 31 reads as 0 (R11). -/
def Snapshot.readX (p : Snapshot) (i : Reg) : Word := if i = XZR then 0#64 else p.x[i]

/-- The value of general register `i`. -/
def State.observeX (s : State) (i : Reg) : Word := s.shown.readX i

/-- The value of float register `i`, D view. -/
def State.observeD (s : State) (i : FReg) : Word := s.shown.d[i]

/-- The value of float register `i`, S view (R16). -/
def State.observeS (s : State) (i : FReg) : BitVec 32 := (s.shown.d[i]).extractLsb' 0 32

/-- The four flags. -/
def State.observeFlags (s : State) : Flags := s.shown.flags

/-- The current instruction index. -/
def State.observeIndex (s : State) : Nat := s.idx

/-- The current program counter. -/
def State.observePC (s : State) : Word := s.pc

/-- The branch-taken flag. -/
def State.observeBranchTaken (s : State) : Bool := s.branchTaken

/-- The STXR-success flag. -/
def State.observeStxrSuccess (s : State) : Bool := s.stxrSuccess

/-- The single sticky value for runtime faults. -/
def State.observeError (s : State) : Option RuntimeError := s.err

/-- The list of compile-time errors. -/
def State.observeCompileErrors (s : State) : List CompileError := s.compileErrors

end Sys2Proof.Machine
end

