-- ==== Sys2Proof/Safety.lean ====
section
/-!
DEFINITION. The terms the statements use: how a run ends, what an instruction leaves unchanged (the frames), the values
of byte runs, the invariants of the block, and the instruction that a source line spells.
-/

namespace Sys2Proof.Machine

/-! ## How a run stands -/

/-- The run ended normally: no fault, and no instruction left to fetch (10_state R24, 60_exceptions R281). It holds
of a block that compile errors left without a program, too: R24 speaks of a loaded program only, and that is the model's
choice (log 39). -/
def State.succeeded (s : State) : Prop := s.err = none ∧ s.program.records.length ≤ s.idx

/-- A memory instruction with base `n` passes the stack-pointer check (20_memory R52). -/
def State.baseReady (s : State) (n : Reg) : Prop := n = SP → (s.readX SP).toNat % 16 = 0

/-- The `size` bytes from `a` on lie in the data window, with no wrap-around (20_memory R42 R46). -/
def State.inData (s : State) (a : Word) (size : Nat) : Prop :=
  s.params.dynDataBase.toNat ≤ a.toNat ∧ a.toNat + size ≤ s.params.stackBase.toNat

/-- Byte `a` is outside the data window (20_memory R42). -/
def State.outside (s : State) (a : Word) : Prop :=
  ¬(s.params.dynDataBase.toNat ≤ a.toNat ∧ a.toNat < s.params.stackBase.toNat)

/-- The address a failing access of `size` bytes at `a` reports: its first byte when that is outside the window, else
its last (20_memory R46). -/
def State.firstFailing (s : State) (a : Word) (size : Nat) (bad : Word) : Prop :=
  (s.outside a ∧ bad = a)
    ∨ (¬s.outside a ∧ s.outside (a + BitVec.ofNat 64 (size - 1)) ∧ bad = a + BitVec.ofNat 64 (size - 1))

/-- `k` steps of the machine, stopping where a step stops. -/
def steps : Nat → State → Host.Outcome State Fault Refusal
  | 0, s => .next s
  | k + 1, s =>
    match step s with
    | .next t => steps k t
    | .fault f => .fault f
    | .refused r => .refused r

/-! ## Frames -/

/-- What no instruction changes: the float file (10_state R17), the program, the errors of the load, the parameters,
the engine, and all that only a tick of the pipeline changes (10_state R27). -/
structure Untouched (s t : State) : Prop where
  d : t.d = s.d
  program : t.program = s.program
  compileErrors : t.compileErrors = s.compileErrors
  params : t.params = s.params
  engine : t.engine = s.engine
  buf : t.buf = s.buf
  vis : t.vis = s.vis
  ifid : t.ifid = s.ifid
  idex : t.idex = s.idex
  exmem : t.exmem = s.exmem
  memwb : t.memwb = s.memwb
  stallNext : t.stallNext = s.stallNext
  flushNext : t.flushNext = s.flushNext
  hazCB : t.hazCB = s.hazCB
  hazFlag : t.hazFlag = s.hazFlag
  hazLoad : t.hazLoad = s.hazLoad
  fwdA : t.fwdA = s.fwdA
  fwdB : t.fwdB = s.fwdB
  tickLog : t.tickLog = s.tickLog

/-- Every byte of memory reads as before. -/
def SameBytes (s t : State) : Prop := ∀ a : Nat, t.mem.readByte a = s.mem.readByte a

/-- Every general register reads as before. -/
def SameRegisters (s t : State) : Prop := ∀ r : Reg, t.readX r = s.readX r

/-- Register `d` reads as `v`, every other as before; register 31 reads 0 whatever `d` is (10_state R11 R12). -/
def WritesRegister (s t : State) (d : Reg) (v : Word) : Prop :=
  ∀ r : Reg, t.readX r = if r = XZR then 0#64 else if r = d then v else s.readX r

/-- Control falls through: the next index, no branch taken, no fault (00_scope R8, 10_state R21). -/
structure FallsThrough (s t : State) : Prop where
  idx : t.idx = s.idx + 1
  branchTaken : t.branchTaken = false
  err : t.err = s.err

/-- Control transfers to `target` when `taken`, else falls through; no fault (46_branch R230 R231 R236). -/
structure Transfers (s t : State) (taken : Bool) (target : Nat) : Prop where
  idx : t.idx = if taken then target else s.idx + 1
  branchTaken : t.branchTaken = taken
  err : t.err = s.err

/-- The exclusive monitor and the STXR flag are as before. -/
structure SameExclusive (s t : State) : Prop where
  mon : t.mon = s.mon
  stxrSuccess : t.stxrSuccess = s.stxrSuccess

/-- The whole effect of an instruction that writes `v` to register `d` and sets no flag. -/
structure RegisterResult (s t : State) (d : Reg) (v : Word) : Prop where
  registers : WritesRegister s t d v
  flags : t.flags = s.flags
  memory : SameBytes s t
  exclusive : SameExclusive s t
  control : FallsThrough s t
  rest : Untouched s t

/-- The whole effect of an instruction that writes `v` to register `d` and `f` to the flags. -/
structure FlaggedResult (s t : State) (d : Reg) (v : Word) (f : Flags) : Prop where
  registers : WritesRegister s t d v
  flags : t.flags = f
  memory : SameBytes s t
  exclusive : SameExclusive s t
  control : FallsThrough s t
  rest : Untouched s t

/-- The whole effect of an instruction that writes `f` to the flags and no register. -/
structure FlagsResult (s t : State) (f : Flags) : Prop where
  registers : SameRegisters s t
  flags : t.flags = f
  memory : SameBytes s t
  exclusive : SameExclusive s t
  control : FallsThrough s t
  rest : Untouched s t

/-- The whole effect of a branch to a label that writes no register. -/
structure BranchResult (s t : State) (taken : Bool) (target : Nat) : Prop where
  registers : SameRegisters s t
  flags : t.flags = s.flags
  memory : SameBytes s t
  exclusive : SameExclusive s t
  control : Transfers s t taken target
  rest : Untouched s t

/-- The `size` bytes from `ea` on hold the low bytes of `v`, most significant first; every other address reads as
before (20_memory R48). -/
structure StoresBytes (s t : State) (ea : Word) (size : Nat) (v : Word) : Prop where
  stored : ∀ i < size, t.mem.readByte (ea.toNat + i) = v.extractLsb' (8 * (size - 1 - i)) 8
  others : ∀ a : Nat, (a < ea.toNat ∨ ea.toNat + size ≤ a) → t.mem.readByte a = s.mem.readByte a

/-- The whole effect of an ordinary store of `size` bytes of `v` at `ea` (44_load_store R203 R208 to R211): the monitor
is cleared when the bytes meet the tagged doubleword, as unbounded integers. -/
structure StoreResult (s t : State) (ea : Word) (size : Nat) (v : Word) : Prop where
  memory : StoresBytes s t ea size v
  monitor : ∀ a : Word, s.mon = some a →
    t.mon = if ea.toNat < a.toNat + 8 ∧ a.toNat < ea.toNat + size then none else some a
  noMonitor : s.mon = none → t.mon = none
  stxrSuccess : t.stxrSuccess = s.stxrSuccess
  registers : SameRegisters s t
  flags : t.flags = s.flags
  control : FallsThrough s t
  rest : Untouched s t

/-- The whole effect of taking fault `f` (60_exceptions R280): `err` holds the fault and the line of the faulting
record; every other field of the state is as it was. -/
def FaultEntry (s t : State) (f : Fault) : Prop :=
  t = { s with err := some { fault := f, line := s.currentLine } }

/-! ## Values of byte runs -/

/-- `v` is the big-endian value of the `size` bytes from address `a` on, zero above them (20_memory R47): bit `j` of the
byte at `a + i` is bit `8(size-1-i) + j` of `v`. -/
structure IsBigEndianValue (m : Memory) (a : Nat) (size : Nat) (v : Word) : Prop where
  bytes : ∀ i < size, v.extractLsb' (8 * (size - 1 - i)) 8 = m.readByte (a + i)
  above : v.toNat < 2 ^ (8 * size)

/-! ## The order of float patterns (47_fp_compare R260 R261) -/

/-- The pattern of a binary64 NaN. -/
def isNaN64 (v : Word) : Prop := v.extractLsb' 52 11 = 0x7FF#11 ∧ v.extractLsb' 0 52 ≠ 0#52

/-- The pattern of a binary32 NaN. -/
def isNaN32 (v : BitVec 32) : Prop := v.extractLsb' 23 8 = 0xFF#8 ∧ v.extractLsb' 0 23 ≠ 0#23

/-- The sign-and-magnitude reading of a binary64 pattern: for patterns that are no NaN, IEEE 754 orders values as this
integer orders patterns, the two zeros being equal. -/
def order64 (v : Word) : Int := if v.msb then -(v.toNat % 2 ^ 63 : Nat) else (v.toNat % 2 ^ 63 : Nat)

/-- The sign-and-magnitude reading of a binary32 pattern. -/
def order32 (v : BitVec 32) : Int := if v.msb then -(v.toNat % 2 ^ 31 : Nat) else (v.toNat % 2 ^ 31 : Nat)

/-- The flags of a compare by an order: unordered 0011, equal 0110, less 1000, greater 0010 (47_fp_compare R261). -/
structure CompareFlags (unordered : Prop) (x y : Int) (f : Flags) : Prop where
  whenUnordered : unordered → f = ⟨false, false, true, true⟩
  whenEqual : ¬unordered → x = y → f = ⟨false, true, true, false⟩
  whenLess : ¬unordered → x < y → f = ⟨true, false, false, false⟩
  whenGreater : ¬unordered → y < x → f = ⟨false, false, true, false⟩

/-! ## Which instructions may do what -/

/-- The eight flag-setting instructions (10_state R18). -/
def setsFlagsOf (i : Instr) : Prop :=
  i.mnemonic ∈ [Mnemonic.adds, .addis, .subs, .subis, .ands, .andis, .fcmps, .fcmpd]

/-- An ordinary store to base `n` with offset `off`, with its size in bytes (44_load_store R208 to R211). -/
def ordinaryStore (i : Instr) (n : Reg) (off : Int) (size : Nat) : Prop :=
  (∃ t, i = .stur t n off ∧ size = 8) ∨ (∃ t, i = .sturw t n off ∧ size = 4)
    ∨ (∃ t, i = .sturh t n off ∧ size = 2) ∨ (∃ t, i = .sturb t n off ∧ size = 1)

/-- The eleven instructions that can raise a fault (60_exceptions R271 R272 R273 R275). -/
def canFault (i : Instr) : Prop :=
  i.mnemonic ∈ [Mnemonic.ldur, .ldursw, .ldurh, .ldurb, .stur, .sturw, .sturh, .sturb, .ldxr, .stxr, .br]

/-! ## Invariants -/

/-- What every single step of either engine keeps (20_memory R40, 10_state R12 R19 R30, 30_encoding R102): a canonical
memory, the storage behind register 31 at 0, a legal address map, a well-formed program, and an index inside the
text segment. -/
structure CoreInv (s : State) : Prop where
  memory : Memory.wf s.mem = true
  zeroRegister : s.x[31] = 0#64
  map : s.params.legal s.program.records.length = true
  program : Program.wf s.program = true
  index : s.params.textBase.toNat + 4 * s.idx ≤ s.params.textLimit.toNat

/-- The pipeline registers, the hazard flags and the diagnostics are functions of the buffer (70_reset R329, R332 to
R340). -/
structure PipeRegs (s : State) : Prop where
  ifid : s.ifid = stageFields s.buf.slotID
  idex : s.idex = stageFields s.buf.slotEX
  exmem : s.exmem = stageFields s.buf.slotMEM
  memwb : s.memwb = stageFields s.buf.slotWB
  hazCB : s.hazCB = compareBranchHazard s.ifid s.idex s.exmem
  hazFlag : s.hazFlag = flagHazard s.ifid s.idex s.exmem
  hazLoad : s.hazLoad = loadUseHazard s.ifid s.idex
  stallNext : s.stallNext = (s.hazCB || s.hazFlag || s.hazLoad)
  flushNext : s.flushNext = controlHazard s.buf.slotID
  fwdA : s.fwdA = forwardA s.idex s.exmem s.memwb
  fwdB : s.fwdB = forwardB s.idex s.exmem s.memwb

/-- What a log line shows of a slot: the mnemonic of its record, nothing of a bubble (70_reset R341). -/
def mnemonicIn (slot : Option InFlight) : Option Mnemonic := slot.map (fun p => p.record.instr.mnemonic)

/-- The slot holds a producer of `r`: RegWrite is asserted, `r` is its destination and not register 31 (70_reset R331). -/
def ProducesIn (slot : Option InFlight) (r : Reg) : Prop :=
  r ≠ XZR ∧ ∃ p, slot = some p ∧ p.record.ctrl.regWrite = .on ∧ (registerFields p.record.instr).dest = some r

/-- The records in flight, oldest first. -/
def Buffer.inFlight (b : Buffer) : List InFlight :=
  b.slotWB.toList ++ b.slotMEM.toList ++ b.slotEX.toList ++ b.slotID.toList ++ b.slotIF.toList

/-- Each record begins where the one before it ended, from snapshot `start` to snapshot `final`. -/
def Chained (start : Snapshot) : List InFlight → Snapshot → Prop
  | [], final => start = final
  | p :: ps, final => p.before = start ∧ Chained p.after ps final

/-- The state of a pipelined run between ticks (70_reset R326 R328 R345): the records in flight lead from the visible
snapshot to the front end's, and behind a taken branch in ID stands a bubble or a record that changes nothing. -/
structure PipeInv (s : State) : Prop where
  regs : PipeRegs s
  chain : Chained s.vis s.buf.inFlight s.snapshot
  placeholder : ∀ p, s.buf.slotID = some p → p.taken = true →
    ∀ q, s.buf.slotIF = some q → q.before = q.after ∧ q.taken = false

/-- The state with other diagnostics, other pipeline registers and another tick log (70_reset R329 R336 R337 R341). -/
def State.withDiagnostics (s : State) (fwd : Forward × Forward) (haz : Bool × Bool × Bool)
    (front : Option StageFields × Option StageFields) (back : Option StageFields × Option StageFields)
    (log : List TickLine) : State where
  x := s.x
  d := s.d
  flags := s.flags
  idx := s.idx
  mon := s.mon
  branchTaken := s.branchTaken
  stxrSuccess := s.stxrSuccess
  err := s.err
  mem := s.mem
  program := s.program
  compileErrors := s.compileErrors
  params := s.params
  engine := s.engine
  buf := s.buf
  vis := s.vis
  ifid := front.1
  idex := front.2
  exmem := back.1
  memwb := back.2
  stallNext := s.stallNext
  flushNext := s.flushNext
  hazCB := haz.1
  hazFlag := haz.2.1
  hazLoad := haz.2.2
  fwdA := fwd.1
  fwdB := fwd.2
  tickLog := log

/-- The CPU and memory part of two states agree: all that the single-cycle engine has (70_reset R320 R345). -/
structure SameFrontEnd (s t : State) : Prop where
  x : t.x = s.x
  d : t.d = s.d
  flags : t.flags = s.flags
  idx : t.idx = s.idx
  mon : t.mon = s.mon
  branchTaken : t.branchTaken = s.branchTaken
  stxrSuccess : t.stxrSuccess = s.stxrSuccess
  err : t.err = s.err
  mem : t.mem = s.mem
  program : t.program = s.program
  params : t.params = s.params

/-! ## What a source line spells (30_encoding R77, R95 to R99) -/

/-- Operand tokens `Xd, Xn, Xm`. -/
def SpellsThree (f : Reg → Reg → Reg → Instr) (ts : List Text) (i : Instr) : Prop :=
  ∃ a b c d n m, ts = [a, [','], b, [','], c] ∧ readX a = some d ∧ readX b = some n ∧ readX c = some m ∧ i = f d n m

/-- Operand tokens `Xd, Xn`. -/
def SpellsTwo (f : Reg → Reg → Instr) (ts : List Text) (i : Instr) : Prop :=
  ∃ a b d n, ts = [a, [','], b] ∧ readX a = some d ∧ readX b = some n ∧ i = f d n

/-- Operand tokens `Xd, Xn, #imm` with an immediate of at most `max`. -/
def SpellsTwoImm (max : Nat) (f : Reg → Reg → Nat → Instr) (ts : List Text) (i : Instr) : Prop :=
  ∃ a b c d n imm, ts = [a, [','], b, [','], c] ∧ readX a = some d ∧ readX b = some n
    ∧ readImmediate c = some (Int.ofNat imm) ∧ imm ≤ max ∧ i = f d n imm

/-- Operand tokens `Xn, #imm` with an immediate of at most 4095. -/
def SpellsOneImm (f : Reg → Nat → Instr) (ts : List Text) (i : Instr) : Prop :=
  ∃ a c n imm, ts = [a, [','], c] ∧ readX a = some n ∧ readImmediate c = some (Int.ofNat imm) ∧ imm ≤ 4095 ∧ i = f n imm

/-- Operand tokens `Xd, #imm`, which read as shift 0, or `Xd, #imm, LSL #q` with LSL in the case of the mnemonic (R96). -/
def SpellsWide (k : LetterCase) (f : Reg → Nat → Nat → Instr) (ts : List Text) (i : Instr) : Prop :=
  ∃ a b d imm, readX a = some d ∧ readImmediate b = some (Int.ofNat imm) ∧ imm ≤ 65535
    ∧ ((ts = [a, [','], b] ∧ i = f d imm 0)
      ∨ ∃ c q, ts = [a, [','], b, [','], inCase k "LSL".toList, c] ∧ readImmediate c = some (Int.ofNat q)
        ∧ q ∈ [0, 16, 32, 48] ∧ i = f d imm q)

/-- Operand tokens `Xt, [Xn, #off]` with an offset from `least` to `most`. -/
def SpellsMemory (least most : Int) (f : Reg → Reg → Int → Instr) (ts : List Text) (i : Instr) : Prop :=
  ∃ a b c t n off, ts = [a, [','], ['['], b, [','], c, [']']] ∧ readX a = some t ∧ readX b = some n
    ∧ readImmediate c = some off ∧ least ≤ off ∧ off ≤ most ∧ i = f t n off

/-- Operand tokens `Xt, Xs, [Xn, #0]`. -/
def SpellsStoreExclusive (f : Reg → Reg → Reg → Instr) (ts : List Text) (i : Instr) : Prop :=
  ∃ a b c e t s n, ts = [a, [','], b, [','], ['['], c, [','], e, [']']] ∧ readX a = some t ∧ readX b = some s
    ∧ readX c = some n ∧ readImmediate e = some 0 ∧ i = f t s n

/-- Line `k` of the text defines the label (R80 R95). -/
def LabelAt (lines : List Text) (name : Text) (k : Nat) : Prop :=
  ∃ line rest, lines[k]? = some line ∧ tokensOf line = name :: [':'] :: rest ∧ isLabelName name = true

/-- The instruction that a mnemonic, in upper case, and its operand tokens spell: the rows of R77, and CMP, CMPI and MOV
as R97 to R99 give them. A branch operand stands for the index of the line that defines the label. -/
def Spells (lines : List Text) (k : LetterCase) (name : Text) (ts : List Text) (i : Instr) : Prop :=
  (∃ q ∈ [("ADD", Instr.add), ("ADDS", .adds), ("SUB", .sub), ("SUBS", .subs), ("AND", .and), ("ANDS", .ands),
      ("ORR", .orr), ("EOR", .eor)], name = q.1.toList ∧ SpellsThree q.2 ts i)
  ∨ (∃ q ∈ [("ADDI", Instr.addi), ("ADDIS", .addis), ("SUBI", .subi), ("SUBIS", .subis), ("ANDI", .andi),
      ("ANDIS", .andis), ("ORRI", .orri), ("EORI", .eori)], name = q.1.toList ∧ SpellsTwoImm 4095 q.2 ts i)
  ∨ (∃ q ∈ [("LSL", Instr.lsl), ("LSR", .lsr)], name = q.1.toList ∧ SpellsTwoImm 63 q.2 ts i)
  ∨ (∃ q ∈ [("MOVZ", Instr.movz), ("MOVK", .movk)], name = q.1.toList ∧ SpellsWide k q.2 ts i)
  ∨ (∃ q ∈ [("LDUR", Instr.ldur), ("LDURSW", .ldursw), ("LDURH", .ldurh), ("LDURB", .ldurb), ("STUR", .stur),
      ("STURW", .sturw), ("STURH", .sturh), ("STURB", .sturb)], name = q.1.toList ∧ SpellsMemory (-256) 255 q.2 ts i)
  ∨ (name = "LDXR".toList ∧ SpellsMemory 0 0 (fun t n _ => .ldxr t n) ts i)
  ∨ (name = "STXR".toList ∧ SpellsStoreExclusive .stxr ts i)
  ∨ (∃ q ∈ [("B", Instr.b), ("BL", .bl), ("B.EQ", .bEq), ("B.NE", .bNe), ("B.HS", .bHs), ("B.LO", .bLo),
      ("B.HI", .bHi), ("B.LS", .bLs), ("B.GE", .bGe), ("B.LT", .bLt), ("B.GT", .bGt), ("B.LE", .bLe), ("B.MI", .bMi),
      ("B.PL", .bPl), ("B.VS", .bVs), ("B.VC", .bVc)],
      name = q.1.toList ∧ ∃ l target, ts = [l] ∧ LabelAt lines l target ∧ i = q.2 target)
  ∨ (name = "BR".toList ∧ ∃ a n, ts = [a] ∧ readX a = some n ∧ i = .br n)
  ∨ (∃ q ∈ [("CBZ", Instr.cbz), ("CBNZ", .cbnz)], name = q.1.toList
      ∧ ∃ a l t target, ts = [a, [','], l] ∧ readX a = some t ∧ LabelAt lines l target ∧ i = q.2 t target)
  ∨ (∃ q ∈ [("FCMPS", 'S', Instr.fcmps), ("FCMPD", 'D', .fcmpd)], name = q.1.toList
      ∧ ∃ a b n m, ts = [a, [','], b] ∧ readFloat q.2.1 a = some n ∧ readFloat q.2.1 b = some m ∧ i = q.2.2 n m)
  ∨ (name = "CMP".toList ∧ SpellsTwo (fun n m => .subs 31 n m) ts i)
  ∨ (name = "CMPI".toList ∧ SpellsOneImm (fun n imm => .subis 31 n imm) ts i)
  ∨ (name = "MOV".toList ∧ SpellsTwo (fun d n => .orr d 31 n) ts i)

/-- The line is an optional label definition, a mnemonic all in upper or all in lower case, and operands that spell the
instruction (R74 R95). -/
def LineSpells (lines : List Text) (line : Text) (i : Instr) : Prop :=
  ∃ k name ts, Spells lines k name ts i
    ∧ (tokensOf line = inCase k name :: ts
      ∨ ∃ l, isLabelName l = true ∧ tokensOf line = l :: [':'] :: inCase k name :: ts)

end Sys2Proof.Machine
end

