-- ==== Sys2Proof/Certificates/Slice0/Obligations.lean ====
section
/-!
DEFINITION. The statements about the model. Each docstring says what the definition states and names the rules of spec/
it formalises; where a clause rests on a choice of the spec or of the model, it names the decision or the log entry.
-/

section

open Sys2Proof Sys2Proof.Machine

/-- The reset values are the spec's own decision D4 with the default parameters (the model's choice: logs 1, 2, 3):
register 28 is 0x7FFFFFFFF0, every other general register and every float register reads 0, the flags, the index and
the program counter stand at the first instruction, the monitor and the error are empty, both observable flags are
false, every byte of memory reads 0, the pipeline is empty and its visible snapshot is the front end's. (R31, R44, D4) -/
def Obligations.ResetHoldsTheResetTable : Prop :=
  (∀ r : Reg, State.reset.readX r = if r = SP then 0x7FFFFFFFF0#64 else 0#64)
  ∧ (∀ r : FReg, State.reset.readD r = 0#64)
  ∧ State.reset.flags = ⟨false, false, false, false⟩
  ∧ State.reset.idx = 0 ∧ State.reset.pc = State.reset.params.textBase
  ∧ State.reset.mon = none ∧ State.reset.branchTaken = false ∧ State.reset.stxrSuccess = false
  ∧ State.reset.err = none ∧ (∀ a : Nat, State.reset.mem.readByte a = 0#8)
  ∧ State.reset.buf = ⟨none, none, none, none, none⟩ ∧ State.reset.vis = State.reset.snapshot
  ∧ State.reset.ifid = none ∧ State.reset.idex = none ∧ State.reset.exmem = none ∧ State.reset.memwb = none
  ∧ State.reset.stallNext = false ∧ State.reset.flushNext = false
  ∧ State.reset.fwdA = .noForward ∧ State.reset.fwdB = .noForward

/-- For every launch, engine and program: if the launch is legal, loading answers the state with register 28 at SP_RESET,
register 31 at 0, every other register at XRESET, the float file at DRESET, memory at MEM_INIT, flags 0, index 0,
monitor and error empty, five bubbles, the visible snapshot equal to the front end's, the four pipeline registers
empty, the stall, flush and hazard flags false, both forwarding diagnostics None, the tick log empty (log 27), and the
program, the parameters and the engine (log 4) given; if it is not, the load is refused by name. The values are the
spec's decision D4. Legal is the constraints of R6 and R302 (the spec's decision D3, U23, log 1) and, of the model's
own (log 3), that the list of MEM_INIT is in canonical form. (R6, R27, R31, R301, R302, R339, U23) -/
def Obligations.LoadEstablishesTheResetState : Prop :=
  ∀ (l : Launch) (e : Engine) (p : Program),
    (l.legal p.records.length = true → ∃ t, loadProgram l e p = .next t
      ∧ t.readX SP = l.spReset ∧ t.readX XZR = 0#64
      ∧ (∀ r : Reg, r ≠ SP → r ≠ XZR → t.readX r = l.xReset[r]) ∧ (∀ r : FReg, t.readD r = l.dReset[r])
      ∧ (∀ a : Nat, t.mem.readByte a = l.memInit.readByte a) ∧ t.flags = ⟨false, false, false, false⟩
      ∧ t.idx = 0 ∧ t.mon = none ∧ t.err = none ∧ t.branchTaken = false ∧ t.stxrSuccess = false
      ∧ t.buf = ⟨none, none, none, none, none⟩ ∧ t.vis = t.snapshot ∧ t.ifid = none ∧ t.idex = none
      ∧ t.exmem = none ∧ t.memwb = none ∧ t.stallNext = false ∧ t.flushNext = false ∧ t.hazCB = false
      ∧ t.hazFlag = false ∧ t.hazLoad = false ∧ t.fwdA = .noForward ∧ t.fwdB = .noForward ∧ t.tickLog = []
      ∧ t.program = p ∧ t.params = l.params ∧ t.engine = e ∧ t.compileErrors = [])
    ∧ (l.legal p.records.length = false → loadProgram l e p = .refused .illegalLaunch)
    ∧ ∀ N : Nat, l.legal N = true ↔ l.params.textBase.toNat % 4 = 0
      ∧ l.params.textBase.toNat + 4 * N ≤ l.params.textLimit.toNat
      ∧ l.params.textBase.toNat < l.params.textLimit.toNat ∧ l.params.textLimit.toNat < 2 ^ 63
      ∧ l.params.dynDataBase.toNat < l.params.stackBase.toNat ∧ l.params.stackBase.toNat ≤ 2 ^ 63
      ∧ l.spReset.toNat % 16 = 0 ∧ Memory.wf l.memInit = true

/-- In every state, for all registers and immediates, each of ADD, ADDI, SUB, SUBI answers a next state in which the
destination holds the sum or difference of the operands as unbounded integers, reduced modulo 2^64 (register 31
discards it and reads 0), and in which every other register, every flag, every byte of memory, the monitor,
stxrSuccess and all other state are as before, the index advanced by one and branchTaken false (R21, the spec's
decision D14, log 19). An immediate above 4095, which no loaded program holds, is taken as it stands: the model's
choice (log 29). (R150, R152, R154, R156, R140, R21, R131, D14) -/
def Obligations.AddAndSubtractWriteTheWrappedResult : Prop :=
  ∀ (s : State) (d n m : Reg) (imm : Nat),
    (∃ t, exec (.add d n m) s = .next t
      ∧ RegisterResult s t d (BitVec.ofNat 64 ((s.readX n).toNat + (s.readX m).toNat)))
    ∧ (∃ t, exec (.addi d n imm) s = .next t
      ∧ RegisterResult s t d (BitVec.ofNat 64 ((s.readX n).toNat + imm)))
    ∧ (∃ t, exec (.sub d n m) s = .next t
      ∧ RegisterResult s t d (BitVec.ofInt 64 ((s.readX n).toNat - (s.readX m).toNat)))
    ∧ (∃ t, exec (.subi d n imm) s = .next t
      ∧ RegisterResult s t d (BitVec.ofInt 64 ((s.readX n).toNat - imm)))

/-- In every state each of ADDS and ADDIS answers a next state: the destination holds the sum modulo 2^64; N is set when
the result is at least 2^63, Z when it is 0, C when the unbounded sum is at least 2^64, V when the sum of the signed
values is outside [-2^63, 2^63); nothing else changes but the index and branchTaken, which becomes false (the spec's
decision D14, log 19). That the written MSB formulas mean this is what the spec marks as derived of its decision D5.
(R134, R135, R136, R142, R151, R153, D14) -/
def Obligations.AddsFlagsAreCarryAndSignedOverflow : Prop :=
  ∀ (s : State) (d n m : Reg) (imm : Nat), imm ≤ 4095 →
    (∃ t r, exec (.adds d n m) s = .next t ∧ r = BitVec.ofNat 64 ((s.readX n).toNat + (s.readX m).toNat)
      ∧ FlaggedResult s t d r
          { n := decide (2 ^ 63 ≤ r.toNat)
            z := decide (r.toNat = 0)
            c := decide (2 ^ 64 ≤ (s.readX n).toNat + (s.readX m).toNat)
            v := decide ((s.readX n).toInt + (s.readX m).toInt < -2 ^ 63
              ∨ 2 ^ 63 ≤ (s.readX n).toInt + (s.readX m).toInt) })
    ∧ (∃ t r, exec (.addis d n imm) s = .next t ∧ r = BitVec.ofNat 64 ((s.readX n).toNat + imm)
      ∧ FlaggedResult s t d r
          { n := decide (2 ^ 63 ≤ r.toNat)
            z := decide (r.toNat = 0)
            c := decide (2 ^ 64 ≤ (s.readX n).toNat + imm)
            v := decide (2 ^ 63 ≤ (s.readX n).toInt + imm) })

/-- In every state each of SUBS and SUBIS answers a next state: the destination holds the difference modulo 2^64; N and Z
are its sign and zero; C is 1 exactly when the second operand is not 0 and not above the first, unsigned; V is the
signed overflow of the difference, inverted when the second operand is 2^63; nothing else changes but the index and
branchTaken, which becomes false (the spec's decision D14, log 19). This is the spec's decision D6 (log 8), not
ARMv8's subtract. (R137, R141, R155, R157, D6, D14) -/
def Obligations.SubsFlagsFollowTheNegatedAddition : Prop :=
  ∀ (s : State) (d n m : Reg) (imm : Nat), imm ≤ 4095 →
    (∃ t r, exec (.subs d n m) s = .next t ∧ r = BitVec.ofInt 64 ((s.readX n).toNat - (s.readX m).toNat)
      ∧ FlaggedResult s t d r
          { n := decide (2 ^ 63 ≤ r.toNat)
            z := decide ((s.readX n).toNat = (s.readX m).toNat)
            c := decide ((s.readX m).toNat ≠ 0 ∧ (s.readX m).toNat ≤ (s.readX n).toNat)
            v := xor (decide ((s.readX m).toNat = 2 ^ 63))
              (decide ((s.readX n).toInt - (s.readX m).toInt < -2 ^ 63
                ∨ 2 ^ 63 ≤ (s.readX n).toInt - (s.readX m).toInt)) })
    ∧ (∃ t r, exec (.subis d n imm) s = .next t ∧ r = BitVec.ofInt 64 ((s.readX n).toNat - imm)
      ∧ FlaggedResult s t d r
          { n := decide (2 ^ 63 ≤ r.toNat)
            z := decide ((s.readX n).toNat = imm)
            c := decide (imm ≠ 0 ∧ imm ≤ (s.readX n).toNat)
            v := decide ((s.readX n).toInt - imm < -2 ^ 63) })

/-- For every state and all operands, each of ADDS, ADDIS, SUBS, SUBIS, ANDS, ANDIS answers a next state whose N is bit 63
of the instruction's 64-bit result and whose Z is 1 exactly when that result is 0. An immediate above 4095, which no
loaded program holds, is taken as it stands: the model's choice (log 29). (R132, R133, R151, R153, R155, R157, R171,
R173) -/
def Obligations.IntegerNAndZComeFromTheResult : Prop :=
  ∀ (s : State) (d n m : Reg) (imm : Nat),
    (∃ t, exec (.adds d n m) s = .next t ∧ t.flags.n = (s.readX n + s.readX m).getLsbD 63
      ∧ t.flags.z = decide (s.readX n + s.readX m = 0#64))
    ∧ (∃ t, exec (.addis d n imm) s = .next t ∧ t.flags.n = (s.readX n + BitVec.ofNat 64 imm).getLsbD 63
      ∧ t.flags.z = decide (s.readX n + BitVec.ofNat 64 imm = 0#64))
    ∧ (∃ t, exec (.subs d n m) s = .next t ∧ t.flags.n = (s.readX n - s.readX m).getLsbD 63
      ∧ t.flags.z = decide (s.readX n - s.readX m = 0#64))
    ∧ (∃ t, exec (.subis d n imm) s = .next t ∧ t.flags.n = (s.readX n - BitVec.ofNat 64 imm).getLsbD 63
      ∧ t.flags.z = decide (s.readX n - BitVec.ofNat 64 imm = 0#64))
    ∧ (∃ t, exec (.ands d n m) s = .next t ∧ t.flags.n = (s.readX n &&& s.readX m).getLsbD 63
      ∧ t.flags.z = decide (s.readX n &&& s.readX m = 0#64))
    ∧ (∃ t, exec (.andis d n imm) s = .next t ∧ t.flags.n = (s.readX n &&& BitVec.ofNat 64 imm).getLsbD 63
      ∧ t.flags.z = decide (s.readX n &&& BitVec.ofNat 64 imm = 0#64))

/-- In every state each of the six answers a next state in which the destination holds the value whose every bit is the
and, or, or exclusive or of the operands' bits (an immediate being zero-extended), and nothing else changes but the
index and branchTaken, which becomes false (the spec's decision D14, log 19). An immediate above 4095, which no loaded
program holds, is taken as it stands: the model's choice (log 29). (R170, R172, R174, R175, R176, R177, D14) -/
def Obligations.LogicalResultsAreBitwise : Prop :=
  ∀ (s : State) (d n m : Reg) (imm : Nat),
    (∃ t v, exec (.and d n m) s = .next t ∧ RegisterResult s t d v
      ∧ ∀ k < 64, v.getLsbD k = ((s.readX n).getLsbD k && (s.readX m).getLsbD k))
    ∧ (∃ t v, exec (.andi d n imm) s = .next t ∧ RegisterResult s t d v
      ∧ ∀ k < 64, v.getLsbD k = ((s.readX n).getLsbD k && imm.testBit k))
    ∧ (∃ t v, exec (.orr d n m) s = .next t ∧ RegisterResult s t d v
      ∧ ∀ k < 64, v.getLsbD k = ((s.readX n).getLsbD k || (s.readX m).getLsbD k))
    ∧ (∃ t v, exec (.orri d n imm) s = .next t ∧ RegisterResult s t d v
      ∧ ∀ k < 64, v.getLsbD k = ((s.readX n).getLsbD k || imm.testBit k))
    ∧ (∃ t v, exec (.eor d n m) s = .next t ∧ RegisterResult s t d v
      ∧ ∀ k < 64, v.getLsbD k = xor ((s.readX n).getLsbD k) ((s.readX m).getLsbD k))
    ∧ (∃ t v, exec (.eori d n imm) s = .next t ∧ RegisterResult s t d v
      ∧ ∀ k < 64, v.getLsbD k = xor ((s.readX n).getLsbD k) (imm.testBit k))

/-- In every state, whatever the flags were, each of ANDS and ANDIS answers a next state in which the destination holds
the bitwise and of the operands, N is bit 63 of that result, Z says it is 0, C and V are 0, and nothing else changes
but the index and branchTaken, which becomes false (the spec's decision D14, log 19). An immediate above 4095, which
no loaded program holds, is taken as it stands: the model's choice (log 29). (R131, R132, R133, R138, R171, R173, D14) -/
def Obligations.AndsClearsCarryAndOverflow : Prop :=
  ∀ (s : State) (d n m : Reg) (imm : Nat),
    (∃ t v, exec (.ands d n m) s = .next t
      ∧ (∀ k < 64, v.getLsbD k = ((s.readX n).getLsbD k && (s.readX m).getLsbD k))
      ∧ FlaggedResult s t d v { n := v.getLsbD 63, z := decide (v = 0#64), c := false, v := false })
    ∧ (∃ t v, exec (.andis d n imm) s = .next t
      ∧ (∀ k < 64, v.getLsbD k = ((s.readX n).getLsbD k && imm.testBit k))
      ∧ FlaggedResult s t d v { n := v.getLsbD 63, z := decide (v = 0#64), c := false, v := false })

/-- In every state, for every shift amount (an encoded one is at most 63; for 64 and more, which no loaded program holds,
the result is the model's choice of log 29), LSL answers a next state whose destination is the operand times 2^sh
modulo 2^64 and LSR one whose destination is the operand divided by 2^sh, rounded down; nothing else changes but the
index and branchTaken, which becomes false (the spec's decision D14, log 19). The operations are the spec's from
general knowledge (G4, log 11). (R190, R191, R143, D14) -/
def Obligations.ShiftsMultiplyAndDivideByPowersOfTwo : Prop :=
  ∀ (s : State) (d n : Reg) (sh : Nat),
    (∃ t v, exec (.lsl d n sh) s = .next t ∧ v.toNat = (s.readX n).toNat * 2 ^ sh % 2 ^ 64 ∧ RegisterResult s t d v)
    ∧ (∃ t v, exec (.lsr d n sh) s = .next t ∧ v.toNat = (s.readX n).toNat / 2 ^ sh ∧ RegisterResult s t d v)

/-- For every immediate up to 65535 and every shift of the set 0, 16, 32, 48, MOVZ answers a next state whose destination
is imm * 2^q and MOVK one whose destination has the bits of imm at q to q+15 and its old bits elsewhere; nothing else
changes but the index and branchTaken, which becomes false (the spec's decision D14, log 19). The operations are the
spec's from general knowledge (G4, log 11). (R192, R193, D14) -/
def Obligations.WideMovesPlaceOneQuadrant : Prop :=
  ∀ (s : State) (d : Reg) (imm q : Nat), imm ≤ 65535 → q ∈ [0, 16, 32, 48] →
    (∃ t v, exec (.movz d imm q) s = .next t ∧ v.toNat = imm * 2 ^ q ∧ RegisterResult s t d v)
    ∧ (∃ t v, exec (.movk d imm q) s = .next t ∧ RegisterResult s t d v
      ∧ ∀ k < 64, v.getLsbD k = if q ≤ k ∧ k < q + 16 then imm.testBit (k - q) else (s.readX d).getLsbD k)

/-- In every state whose base register passes the stack-pointer check and whose bytes from the effective address on lie in
the data window, each of the three loads answers a next state in which the destination holds the value whose most
significant byte is the one at the lowest address, with zeros above, register 31 discarding it, and nothing else
changes but the index and branchTaken, which becomes false (the spec's decision D14, log 19): no byte, no flag, no
monitor. The effective address of every load and store is the base register plus the signed offset, modulo 2^64. (R47,
R200, R201, R202, R204, R206, R207, D14) -/
def Obligations.LoadsReadBigEndianAndZeroExtend : Prop :=
  (∀ (s : State) (n : Reg) (off : Int), effectiveAddress s n off = BitVec.ofInt 64 ((s.readX n).toNat + off))
  ∧ ∀ (s : State) (t n : Reg) (off : Int), s.baseReady n →
    (s.inData (effectiveAddress s n off) 8 → ∃ u v, exec (.ldur t n off) s = .next u
      ∧ IsBigEndianValue s.mem (effectiveAddress s n off).toNat 8 v ∧ RegisterResult s u t v)
    ∧ (s.inData (effectiveAddress s n off) 2 → ∃ u v, exec (.ldurh t n off) s = .next u
      ∧ IsBigEndianValue s.mem (effectiveAddress s n off).toNat 2 v ∧ RegisterResult s u t v)
    ∧ (s.inData (effectiveAddress s n off) 1 → ∃ u v, exec (.ldurb t n off) s = .next u
      ∧ IsBigEndianValue s.mem (effectiveAddress s n off).toNat 1 v ∧ RegisterResult s u t v)

/-- In every state whose base register passes the stack-pointer check and whose four bytes lie in the data window, LDURSW
answers a next state in which the destination holds the 64-bit two's complement of the signed value of the big-endian
word, and nothing else changes but the index and branchTaken, which becomes false (the spec's decision D14, log 19).
The effective address is the base register plus the signed offset, modulo 2^64. (R47, R200, R201, R205, D14) -/
def Obligations.WordLoadSignExtends : Prop :=
  (∀ (s : State) (n : Reg) (off : Int), effectiveAddress s n off = BitVec.ofInt 64 ((s.readX n).toNat + off))
  ∧ ∀ (s : State) (t n : Reg) (off : Int), s.baseReady n → s.inData (effectiveAddress s n off) 4 →
    ∃ u w, exec (.ldursw t n off) s = .next u
      ∧ IsBigEndianValue s.mem (effectiveAddress s n off).toNat 4 w
      ∧ RegisterResult s u t (BitVec.ofInt 64 (if w.toNat < 2 ^ 31 then w.toNat else w.toNat - 2 ^ 32))

/-- In every state with a canonical memory, whose base register passes the stack-pointer check and whose bytes from the
effective address on lie in the data window, each store answers a next state in which those bytes hold the low bytes
of the register, most significant at the lowest address, every other address reads as before, the monitor is cleared
exactly when the bytes meet the tagged doubleword, and no register, flag or other state changes but the index and
branchTaken, which becomes false (the spec's decision D14, log 19). The effective address is the base register plus
the signed offset, modulo 2^64. (R48, R200, R201, R203, R208, R209, R210, R211, D14) -/
def Obligations.StoresWriteTheirBytesAndBreakTheTag : Prop :=
  (∀ (s : State) (n : Reg) (off : Int), effectiveAddress s n off = BitVec.ofInt 64 ((s.readX n).toNat + off))
  ∧ ∀ (s : State) (t n : Reg) (off : Int), Memory.wf s.mem = true → s.baseReady n →
    (s.inData (effectiveAddress s n off) 8 → ∃ u, exec (.stur t n off) s = .next u
      ∧ StoreResult s u (effectiveAddress s n off) 8 (s.readX t))
    ∧ (s.inData (effectiveAddress s n off) 4 → ∃ u, exec (.sturw t n off) s = .next u
      ∧ StoreResult s u (effectiveAddress s n off) 4 (s.readX t))
    ∧ (s.inData (effectiveAddress s n off) 2 → ∃ u, exec (.sturh t n off) s = .next u
      ∧ StoreResult s u (effectiveAddress s n off) 2 (s.readX t))
    ∧ (s.inData (effectiveAddress s n off) 1 → ∃ u, exec (.sturb t n off) s = .next u
      ∧ StoreResult s u (effectiveAddress s n off) 1 (s.readX t))

/-- For every state with a canonical memory and every address that passes the range check: a store of 8, 4, 2 or 1 bytes,
followed by the load of that width whose effective address in the state after the store is the same, both complete,
and the loaded register (any but 31) holds the low bits of the stored register: all of them, sign-extended from 32
bits, or zero-extended from 16 or 8. (R212) -/
def Obligations.StoreThenLoadReturnsTheStoredBits : Prop :=
  ∀ (s : State) (t n u m : Reg) (off off' : Int), Memory.wf s.mem = true → s.baseReady n → s.baseReady m → u ≠ XZR →
    effectiveAddress s m off' = effectiveAddress s n off →
    (checkRange s.params (effectiveAddress s n off) 8 = none → ∃ s1 s2, exec (.stur t n off) s = .next s1
      ∧ exec (.ldur u m off') s1 = .next s2 ∧ s2.readX u = s.readX t)
    ∧ (checkRange s.params (effectiveAddress s n off) 4 = none → ∃ s1 s2, exec (.sturw t n off) s = .next s1
      ∧ exec (.ldursw u m off') s1 = .next s2 ∧ s2.readX u = ((s.readX t).extractLsb' 0 32).signExtend 64)
    ∧ (checkRange s.params (effectiveAddress s n off) 2 = none → ∃ s1 s2, exec (.sturh t n off) s = .next s1
      ∧ exec (.ldurh u m off') s1 = .next s2 ∧ s2.readX u = ((s.readX t).extractLsb' 0 16).setWidth 64)
    ∧ (checkRange s.params (effectiveAddress s n off) 1 = none → ∃ s1 s2, exec (.sturb t n off) s = .next s1
      ∧ exec (.ldurb u m off') s1 = .next s2 ∧ s2.readX u = ((s.readX t).extractLsb' 0 8).setWidth 64)

/-- In every state whose base register passes the stack-pointer check and whose eight bytes lie in the data window, LDXR
answers a next state in which the destination holds their big-endian value (register 31 discards it), the monitor
holds the address, and nothing else changes but the index and branchTaken, which becomes false (the spec's decision
D14, log 19). (R201, R221, D14) -/
def Obligations.LdxrLoadsAndSetsTheTag : Prop :=
  ∀ (s : State) (t n : Reg), s.baseReady n → s.inData (s.readX n) 8 →
    ∃ u v, exec (.ldxr t n) s = .next u ∧ IsBigEndianValue s.mem (s.readX n).toNat 8 v
      ∧ WritesRegister s u t v ∧ u.mon = some (s.readX n) ∧ u.stxrSuccess = s.stxrSuccess
      ∧ u.flags = s.flags ∧ SameBytes s u ∧ FallsThrough s u ∧ Untouched s u

/-- In every state with a canonical memory, whose base register passes the stack-pointer check and holds the tagged
address, with the eight bytes in the data window, STXR answers a next state in which those bytes hold the value the
source register had before, every other address reads as before, the status register holds 0, the tag is cleared, the
success flag is true, and nothing else changes but the index and branchTaken, which becomes false (the spec's decision
D14, log 19). (R48, R201, R222, D14) -/
def Obligations.StxrSucceedsOnTheTaggedAddress : Prop :=
  ∀ (s : State) (t st n : Reg), Memory.wf s.mem = true → s.baseReady n → s.mon = some (s.readX n) →
    s.inData (s.readX n) 8 →
    ∃ u, exec (.stxr t st n) s = .next u ∧ StoresBytes s u (s.readX n) 8 (s.readX t)
      ∧ WritesRegister s u st 0#64 ∧ u.mon = none ∧ u.stxrSuccess = true
      ∧ u.flags = s.flags ∧ FallsThrough s u ∧ Untouched s u

/-- In every state whose base register passes the stack-pointer check and does not hold the tagged address, in the data
window or not, STXR answers a next state in which the status register holds 1, the success flag is false, and no byte,
flag or other state changes but the index and branchTaken, which becomes false (the spec's decision D14, log 19). That
the tag stays is the spec's decision D11 (log 17). (R222, R225, D11, D14) -/
def Obligations.StxrFailsElsewhereWithoutAccess : Prop :=
  ∀ (s : State) (t st n : Reg), s.baseReady n → s.mon ≠ some (s.readX n) →
    ∃ u, exec (.stxr t st n) s = .next u ∧ SameBytes s u ∧ WritesRegister s u st 1#64
      ∧ u.mon = s.mon ∧ u.stxrSuccess = false ∧ u.flags = s.flags ∧ FallsThrough s u ∧ Untouched s u

/-- For every state with a canonical memory, a base register (not 31's destination, not overwritten) that passes the
stack-pointer check and eight bytes in the data window: LDXR then STXR at that address stores and sets the success
flag; and with a byte store between them that completes into one of the tagged eight bytes, the STXR stores nothing
and clears the success flag. (R224, R225, R203) -/
def Obligations.ExclusivePairSucceedsUnlessBroken : Prop :=
  ∀ (s : State) (t v st n w b : Reg) (off : Int), Memory.wf s.mem = true → s.baseReady n → s.inData (s.readX n) 8 →
    t ≠ n → ∃ s1, exec (.ldxr t n) s = .next s1
      ∧ (∃ s2, exec (.stxr v st n) s1 = .next s2 ∧ s2.stxrSuccess = true ∧ s2.mon = none
        ∧ StoresBytes s1 s2 (s.readX n) 8 (s1.readX v))
      ∧ (s1.baseReady b → (s.readX n).toNat ≤ (effectiveAddress s1 b off).toNat →
        (effectiveAddress s1 b off).toNat < (s.readX n).toNat + 8 →
        ∃ s2 s3, exec (.sturb w b off) s1 = .next s2 ∧ exec (.stxr v st n) s2 = .next s3
          ∧ s3.stxrSuccess = false ∧ SameBytes s2 s3)

/-- In every state where register 28 holds no multiple of 16, each of the ten memory instructions with base register 28
answers the state with the error set to SPAlignment of that value and the line of the record, all else unchanged,
whether or not the address is in the data window and whatever the monitor. The priority is the spec's decision D9 (log
15), and that all else stays, the index and branchTaken with it, is its decision D13 (log 13). Which line the error
holds is stated in AFaultingInstructionChangesOnlyTheError. (R52, R273, R276, R280, D9, D13) -/
def Obligations.MisalignedStackPointerFaultsFirst : Prop :=
  ∀ (s : State) (t st : Reg) (off : Int), (s.readX SP).toNat % 16 ≠ 0 →
    ∀ i ∈ [Instr.ldur t SP off, .ldursw t SP off, .ldurh t SP off, .ldurb t SP off, .stur t SP off, .sturw t SP off,
      .sturh t SP off, .sturb t SP off, .ldxr t SP, .stxr t st SP],
      ∃ u, exec i s = .next u ∧ FaultEntry s u (.spAlignment (s.readX SP))

/-- In every state whose base register passes the stack-pointer check: each load and store whose first byte, or else whose
last byte, is outside the data window answers the state with the error set to SegmentFault of that byte's address, all
else unchanged; LDXR likewise for its eight bytes, and STXR when its address is the tagged one. The effective address
is the base register plus the signed offset, modulo 2^64. Which byte's address is reported when both are outside is
the spec's decision D34 (log 14), that all else stays is its decision D13 (log 13), and that the stack-pointer check
comes before is its decision D9 (log 15). Which line the error holds is stated in
AFaultingInstructionChangesOnlyTheError. (R46, R63, R200, R271, R280, R222, D34, D13) -/
def Obligations.AccessOutsideTheWindowFaults : Prop :=
  (∀ (s : State) (n : Reg) (off : Int), effectiveAddress s n off = BitVec.ofInt 64 ((s.readX n).toNat + off))
  ∧ ∀ (s : State) (t st n : Reg) (off : Int) (bad : Word), s.baseReady n →
    (s.firstFailing (effectiveAddress s n off) 8 bad → ∀ i ∈ [Instr.ldur t n off, .stur t n off],
      ∃ u, exec i s = .next u ∧ FaultEntry s u (.segmentFault bad))
    ∧ (s.firstFailing (effectiveAddress s n off) 4 bad → ∀ i ∈ [Instr.ldursw t n off, .sturw t n off],
      ∃ u, exec i s = .next u ∧ FaultEntry s u (.segmentFault bad))
    ∧ (s.firstFailing (effectiveAddress s n off) 2 bad → ∀ i ∈ [Instr.ldurh t n off, .sturh t n off],
      ∃ u, exec i s = .next u ∧ FaultEntry s u (.segmentFault bad))
    ∧ (s.firstFailing (effectiveAddress s n off) 1 bad → ∀ i ∈ [Instr.ldurb t n off, .sturb t n off],
      ∃ u, exec i s = .next u ∧ FaultEntry s u (.segmentFault bad))
    ∧ (s.firstFailing (s.readX n) 8 bad →
      (∃ u, exec (.ldxr t n) s = .next u ∧ FaultEntry s u (.segmentFault bad))
      ∧ (s.mon = some (s.readX n) → ∃ u, exec (.stxr t st n) s = .next u ∧ FaultEntry s u (.segmentFault bad)))

/-- In every state: if the register holds no multiple of 4, BR answers the state with the error set to PCAlignment of it;
if it holds a multiple of 4 outside the text segment, to SegmentFault of it; all else unchanged. The order is the
spec's decision D10 (log 16), and that all else stays, the index and branchTaken with it, is its decision D13 (log
13). Which line the error holds is stated in AFaultingInstructionChangesOnlyTheError. (R234, R272, R276, R280, D10,
D13) -/
def Obligations.BranchToRegisterFaultsOnABadTarget : Prop :=
  ∀ (s : State) (n : Reg),
    ((s.readX n).toNat % 4 ≠ 0 → ∃ u, exec (.br n) s = .next u ∧ FaultEntry s u (.pcAlignment (s.readX n)))
    ∧ ((s.readX n).toNat % 4 = 0 →
      ((s.readX n).toNat < s.params.textBase.toNat ∨ s.params.textLimit.toNat ≤ (s.readX n).toNat) →
      ∃ u, exec (.br n) s = .next u ∧ FaultEntry s u (.segmentFault (s.readX n)))

/-- For every instruction and every state with no error: if the next state has an error, the instruction is one of the ten
memory instructions or BR, and the next state is the old one with the error set to a fault and the line of the record
at the index, which is what the fault entry of every statement takes for the current line. Of a state with no record
there, the line is the model's choice (log 29). That the index and branchTaken stay is the spec's decision D13 (log
13). (R274, R275, R280, D13) -/
def Obligations.AFaultingInstructionChangesOnlyTheError : Prop :=
  (∀ (i : Instr) (s t : State), s.err = none → exec i s = .next t → t.err ≠ none →
    canFault i ∧ ∃ f, FaultEntry s t f ∧ ∀ r, s.program.records[s.idx]? = some r → t.err = some ⟨f, r.line⟩)
  ∧ (∀ (s : State) (r : Record), s.program.records[s.idx]? = some r → s.currentLine = r.line)

/-- In every state B answers a next state at the target with branchTaken true; CBZ does so exactly when all 64 bits of its
register are 0 and CBNZ exactly when they are not, else they fall through with branchTaken false; no register, flag,
byte or other state changes. That an unconditional branch sets branchTaken is the spec's decision D14 (log 19). (R230,
R231, R235, R237, D14) -/
def Obligations.BranchesToLabelsSetTheIndex : Prop :=
  ∀ (s : State) (r : Reg) (target : Nat),
    (∃ t, exec (.b target) s = .next t ∧ BranchResult s t true target)
    ∧ (∃ t, exec (.cbz r target) s = .next t ∧ BranchResult s t (decide ((s.readX r).toNat = 0)) target)
    ∧ (∃ t, exec (.cbnz r target) s = .next t ∧ BranchResult s t (decide ((s.readX r).toNat ≠ 0)) target)

/-- In every state BL answers a next state at the target in which register 30 holds TEXT_BASE + 4*(idx+1) modulo 2^64,
branchTaken is true (the spec's decision D14, log 19) and no other register, flag, byte or other state changes; and
when that address lies below TEXT_LIMIT and TEXT_BASE is a multiple of 4, a BR through register 30 in the state
reached sets the index back to the one after the BL. The link value is the spec's decision D15 (log 20). (R233, R234,
D15, D14) -/
def Obligations.BranchAndLinkSavesTheNextAddress : Prop :=
  ∀ (s : State) (target : Nat),
    ∃ t, exec (.bl target) s = .next t
      ∧ WritesRegister s t LR (BitVec.ofNat 64 (s.params.textBase.toNat + 4 * (s.idx + 1)))
      ∧ t.flags = s.flags ∧ SameBytes s t ∧ SameExclusive s t ∧ Transfers s t true target ∧ Untouched s t
      ∧ (s.params.textBase.toNat % 4 = 0 → s.params.textBase.toNat + 4 * (s.idx + 1) < s.params.textLimit.toNat →
        ∃ u, exec (.br LR) t = .next u ∧ u.idx = s.idx + 1)

/-- In every state where the register holds a multiple of 4 in [TEXT_BASE, TEXT_LIMIT), BR answers a next state with the
index at (address - TEXT_BASE)/4 and branchTaken true; no register, flag, byte or other state changes. That an
unconditional branch sets branchTaken is the spec's decision D14 (log 19). (R234, D14) -/
def Obligations.BranchToRegisterConvertsTheAddress : Prop :=
  ∀ (s : State) (n : Reg), (s.readX n).toNat % 4 = 0 → s.params.textBase.toNat ≤ (s.readX n).toNat →
    (s.readX n).toNat < s.params.textLimit.toNat →
    ∃ t, exec (.br n) s = .next t
      ∧ BranchResult s t true (((s.readX n).toNat - s.params.textBase.toNat) / 4)

/-- In every state each B.cond answers a next state at the target with branchTaken true when its condition holds of the
flags, else falls through with branchTaken false, changing no register, flag, byte or other state. The predicates are
the spec's from general knowledge (G5); LT is the parameter condLT (log 7), read as a truth table indexed by 8N + 4Z +
2C + V. (R236, R243, R244, R245, R246, R247, R248, R249, R250, R251, R252, 46_branch R253 to R256) -/
def Obligations.ConditionalBranchesFollowTheConditionTable : Prop :=
  ∀ (s : State) (target : Nat),
    (∃ t, exec (.bEq target) s = .next t ∧ BranchResult s t s.flags.z target)
    ∧ (∃ t, exec (.bNe target) s = .next t ∧ BranchResult s t (!s.flags.z) target)
    ∧ (∃ t, exec (.bHs target) s = .next t ∧ BranchResult s t s.flags.c target)
    ∧ (∃ t, exec (.bLo target) s = .next t ∧ BranchResult s t (!s.flags.c) target)
    ∧ (∃ t, exec (.bHi target) s = .next t ∧ BranchResult s t (s.flags.c && !s.flags.z) target)
    ∧ (∃ t, exec (.bLs target) s = .next t ∧ BranchResult s t (!s.flags.c || s.flags.z) target)
    ∧ (∃ t, exec (.bGe target) s = .next t ∧ BranchResult s t (decide (s.flags.n = s.flags.v)) target)
    ∧ (∃ t, exec (.bLt target) s = .next t ∧ BranchResult s t
        (s.params.condLT.getLsbD (8 * s.flags.n.toNat + 4 * s.flags.z.toNat + 2 * s.flags.c.toNat + s.flags.v.toNat))
        target)
    ∧ (∃ t, exec (.bGt target) s = .next t ∧ BranchResult s t (!s.flags.z && decide (s.flags.n = s.flags.v)) target)
    ∧ (∃ t, exec (.bLe target) s = .next t ∧ BranchResult s t (s.flags.z || decide (s.flags.n ≠ s.flags.v)) target)
    ∧ (∃ t, exec (.bMi target) s = .next t ∧ BranchResult s t s.flags.n target)
    ∧ (∃ t, exec (.bPl target) s = .next t ∧ BranchResult s t (!s.flags.n) target)
    ∧ (∃ t, exec (.bVs target) s = .next t ∧ BranchResult s t s.flags.v target)
    ∧ (∃ t, exec (.bVc target) s = .next t ∧ BranchResult s t (!s.flags.v) target)

/-- In every state SUBS of a and b completes, and then: B.EQ branches exactly when a = b; B.HS exactly when b is not 0 and
a >= b unsigned, B.LO exactly when not; B.HI exactly when b is not 0 and a > b, B.LS exactly when not; and when b is
not 2^63, B.GE exactly when a >= b signed, B.GT exactly when a > b, B.LE exactly when a <= b. The exceptions are the
spec's decision D6 (log 8). (R141, R245, R246, R247, R248, R249, R251, R252, D6) -/
def Obligations.BranchesAfterSubsCompareTheOperands : Prop :=
  ∀ (s : State) (d n m : Reg) (target : Nat), ∃ t, exec (.subs d n m) s = .next t
    ∧ (∃ u, exec (.bEq target) t = .next u ∧ u.branchTaken = decide ((s.readX n).toNat = (s.readX m).toNat))
    ∧ (∃ u, exec (.bHs target) t = .next u
      ∧ u.branchTaken = decide ((s.readX m).toNat ≠ 0 ∧ (s.readX m).toNat ≤ (s.readX n).toNat))
    ∧ (∃ u, exec (.bLo target) t = .next u
      ∧ u.branchTaken = decide ((s.readX m).toNat = 0 ∨ (s.readX n).toNat < (s.readX m).toNat))
    ∧ (∃ u, exec (.bHi target) t = .next u
      ∧ u.branchTaken = decide ((s.readX m).toNat ≠ 0 ∧ (s.readX m).toNat < (s.readX n).toNat))
    ∧ (∃ u, exec (.bLs target) t = .next u
      ∧ u.branchTaken = decide ((s.readX m).toNat = 0 ∨ (s.readX n).toNat ≤ (s.readX m).toNat))
    ∧ ((s.readX m).toNat ≠ 2 ^ 63 →
      (∃ u, exec (.bGe target) t = .next u ∧ u.branchTaken = decide ((s.readX m).toInt ≤ (s.readX n).toInt))
      ∧ (∃ u, exec (.bGt target) t = .next u ∧ u.branchTaken = decide ((s.readX m).toInt < (s.readX n).toInt))
      ∧ (∃ u, exec (.bLe target) t = .next u ∧ u.branchTaken = decide ((s.readX n).toInt ≤ (s.readX m).toInt)))

/-- In every state each compare answers a next state in which nothing changes but the flags, the index and branchTaken,
which becomes false (the spec's decision D14, log 19); the flags are 0011 when either operand is a NaN, else 0110,
1000 or 0010 as the first operand is equal to, less than or greater than the second, where patterns that are no NaN
are ordered as their sign-and-magnitude integers (so +0 equals -0 and the infinities are extreme); FCMPS reads the low
32 bits only. The ordered rows are the spec's from general knowledge (D8, log 9). (R16, R260, R261, R262, R263, D8,
D14) -/
def Obligations.FloatComparesFollowTheIeeeOrder : Prop :=
  ∀ (s : State) (n m : FReg),
    (∃ t f, exec (.fcmpd n m) s = .next t ∧ FlagsResult s t f
      ∧ CompareFlags (isNaN64 (s.readD n) ∨ isNaN64 (s.readD m)) (order64 (s.readD n)) (order64 (s.readD m)) f)
    ∧ (∃ t f, exec (.fcmps n m) s = .next t ∧ FlagsResult s t f
      ∧ CompareFlags (isNaN32 ((s.readD n).setWidth 32) ∨ isNaN32 ((s.readD m).setWidth 32))
          (order32 ((s.readD n).setWidth 32)) (order32 ((s.readD m).setWidth 32)) f)

/-- For every instruction and every state exec answers a next state, and so does every step of the machine. That a fault
is taken in a next state and never answered as the outcome of a step is the model's choice (log 12). This is no
completion statement: it says nothing of any effect. (R130, R140, R275, R280, R281) -/
def Obligations.EveryInstructionHasANextState : Prop :=
  (∀ (i : Instr) (s : State), ∃ t, exec i s = .next t) ∧ (∀ s : State, ∃ t, step s = .next t)

/-- In every state whose error is set: executeInstruction, clock and run (under any fuel) leave the state as it is; any
command of the host that answers a next state and is no load leaves the error as it is; and the state is not a
successful end. (R281) -/
def Obligations.AFaultHaltsTheMachineForGood : Prop :=
  ∀ s : State, s.err ≠ none →
    executeInstruction s = .next s ∧ clock s = .next s ∧ (∀ fuel, run fuel s = .next s) ∧ ¬s.succeeded
    ∧ (∀ t fuel, s.command .executeInstruction = .next t ∨ s.command (.run fuel) = .next t ∨ s.command .clock = .next t →
      t.err = s.err)

/-- In every state with no error and a record at the index: the single-cycle engine's step is exec of the record's
instruction; the pipelined engine's step, when no stall is pending and IF holds no taken branch, is exec of it
followed, unless it faulted, by the shift that puts its record (old snapshot, new snapshot, program counter,
branchTaken) into IF. The program counter is TEXT_BASE + 4*idx modulo 2^64, a snapshot the two register files and the
flags. And for a single-cycle state and a word that decodes at the index, a step after withFetchWord has placed it is
exec of the decoded instruction, the registers, the memory and the index being those before. That step is the step
function of the engine the state holds is the model's choice (log 4), and withFetchWord, which stands for a load, is
the model's own device (log 5): no rule of the spec speaks of either. (R19, R24, R26, R29, R305, R327) -/
def Obligations.StepRunsTheDecodedInstruction : Prop :=
  (∀ (s : State) (r : Record), s.err = none → s.program.records[s.idx]? = some r →
    (s.engine = .singleCycle → step s = exec r.instr s)
    ∧ (s.engine = .pipelined → s.stallNext = false → (∀ p, s.buf.slotIF = some p → p.taken = false) →
      ∀ t, exec r.instr s = .next t → step s = .next (if t.err.isSome then t else
        t.shiftTo (s.buf.fetchIn s.flushNext
          { record := r, before := s.snapshot, after := t.snapshot, fetchPC := s.pc, taken := t.branchTaken }))))
  ∧ (∀ s : State, s.pc = BitVec.ofNat 64 (s.params.textBase.toNat + 4 * s.idx) ∧ s.snapshot = ⟨s.x, s.d, s.flags⟩)
  ∧ (∀ (s : State) (w : Nat) (i : Instr), s.engine = .singleCycle → w < 2 ^ 32 →
    decode s.idx (BitVec.ofNat 32 w) = .ok i →
    step (s.withFetchWord 32 w) = exec i (s.withFetchWord 32 w) ∧ (s.withFetchWord 32 w).x = s.x
      ∧ (s.withFetchWord 32 w).mem = s.mem ∧ (s.withFetchWord 32 w).idx = s.idx)

/-- Whatever step either engine takes, from every state, the program afterwards is the program before; and what is fetched
does not depend on the data memory. (R60) -/
def Obligations.StoresNeverReachTheProgram : Prop :=
  (∀ s t : State, step s = .next t → t.program = s.program)
  ∧ (∀ (s : State) (m : Memory), (s.setMem m).fetched = s.fetched)

/-- Whatever step either engine takes, from every state, the 32 float registers, the launch parameters, the choice of
engine and the list of compile errors afterwards are those before. That no admitted instruction writes a float
register is the spec's decision D2, D35 (log 11); that the parameters and the engine are fields of the state at all is
the model's choice (logs 1 and 4), the engine standing for the rule that one engine runs a loaded program (R29, D43);
that only a load changes the compile errors is read from R28 and R29. (R7, R10, R17, R28, R29, D2, D35, D43) -/
def Obligations.NoStepWritesTheFloatFileOrTheParameters : Prop :=
  ∀ s t : State, step s = .next t →
    (∀ r : FReg, t.readD r = s.readD r) ∧ t.params = s.params ∧ t.engine = s.engine
      ∧ t.compileErrors = s.compileErrors

/-- For every instruction but the fourteen B.cond, every state and every other setting of the flags: from the state with
those flags the instruction answers the same next state up to the flags, with the same new flags if it is one of the
eight flag setters and with the flags it found if it is not. (R18, R139, R145, R236) -/
def Obligations.OnlyConditionalBranchesReadTheFlags : Prop :=
  ∀ (i : Instr) (s t : State) (f : Flags), i.mnemonic ∉ mnemonicsCondBranch → exec i s = .next t →
    ∃ g, exec i (s.setFlags f) = .next (t.setFlags g)
      ∧ (setsFlagsOf i → g = t.flags) ∧ (¬setsFlagsOf i → g = f ∧ t.flags = s.flags)

/-- For every instruction, every state and every register that is not the instruction's destination in the table of
register fields (STXR's status register, BL's register 30 included): if exec answers a next state, the register reads
as before, register 31 among them. (R12, R18, R131, R330) -/
def Obligations.OnlyTheDestinationRegisterIsWritten : Prop :=
  ∀ (i : Instr) (s t : State), exec i s = .next t →
    ∀ r : Reg, (registerFields i).dest ≠ some r → t.readX r = s.readX r

/-- For every instruction, every state, and every register that is in none of the instruction's three register fields:
changing it first and executing gives what executing and changing it afterwards gives, fault entries included. (R330,
R131, D21) -/
def Obligations.ARegisterInNoFieldHasNoInfluence : Prop :=
  ∀ (i : Instr) (s t : State) (r : Reg) (v : Word), (registerFields i).src1 ≠ some r → (registerFields i).src2 ≠ some r →
    (registerFields i).dest ≠ some r → exec i s = .next t → exec i (s.writeX r v) = .next (t.writeX r v)

/-- For every instruction and state: if the monitor changes, the instruction is an LDXR and the new tag is its address, or
an STXR to the tagged address and the tag is cleared, or an ordinary store whose bytes meet the tagged doubleword and
the tag is cleared; and no instruction but STXR changes the success flag. (R20, R22, R223) -/
def Obligations.OnlyTheListedEventsChangeTheMonitor : Prop :=
  ∀ (i : Instr) (s t : State), exec i s = .next t →
    (t.mon ≠ s.mon →
      (∃ r n, i = .ldxr r n ∧ t.mon = some (s.readX n))
      ∨ (∃ r q n, i = .stxr r q n ∧ s.mon = some (s.readX n) ∧ t.mon = none)
      ∨ (∃ a n off size, ordinaryStore i n off size ∧ s.mon = some a ∧ t.mon = none
        ∧ (effectiveAddress s n off).toNat < a.toNat + 8 ∧ a.toNat < (effectiveAddress s n off).toNat + size))
    ∧ (i.mnemonic ≠ .stxr → t.stxrSuccess = s.stxrSuccess)

/-- For every instruction and state with no error whose next state has none: if the control word bound to the instruction
does not assert FlagWrite the flags are as before; without RegWrite every register is; without MemWrite every byte of
memory is; without UncondBranch, FlagBranch and ZeroBranch the index advances by one and branchTaken is false; and
FlagWrite is asserted exactly for the eight flag-setting instructions. The columns are the spec's decision D26 (log
24), and that a non-branch clears branchTaken is its decision D14 (log 19). (R18, R111, R112, D14, D26) -/
def Obligations.ControlWordsTellWhatInstructionsWrite : Prop :=
  ∀ (i : Instr) (s t : State), s.err = none → exec i s = .next t → t.err = none →
    ((controlOf i.mnemonic).flagWrite ≠ .on → t.flags = s.flags)
    ∧ ((controlOf i.mnemonic).regWrite ≠ .on → SameRegisters s t)
    ∧ ((controlOf i.mnemonic).memWrite ≠ .on → SameBytes s t)
    ∧ ((controlOf i.mnemonic).uncondBranch ≠ .on → (controlOf i.mnemonic).flagBranch ≠ .on →
      (controlOf i.mnemonic).zeroBranch ≠ .on → t.idx = s.idx + 1 ∧ t.branchTaken = false)
    ∧ ((controlOf i.mnemonic).flagWrite = .on ↔ setsFlagsOf i)

/-- In every state with no error and the index at or past the end of the program: executeInstruction and run (under any
fuel) leave the state as it is, and so does clock when the five slots are empty. This end of a run is the spec's
decision D16 (log 21). (R24, R306, R324, D16) -/
def Obligations.AnEndedRunDoesNothing : Prop :=
  ∀ s : State, s.err = none → s.program.records.length ≤ s.idx →
    executeInstruction s = .next s ∧ (∀ fuel, run fuel s = .next s)
    ∧ (s.buf = ⟨none, none, none, none, none⟩ → clock s = .next s)

/-- For every branch index and every instruction, all 51 forms with every operand the encoding admits: if the encoder
gives a word, the decoder at that index reads the instruction back from it; and the encoder gives a word exactly when
the immediates are in range and the branch distance fits its field. (R82, R89, R90, R91, R92, D1) -/
def Obligations.DecodingAnEncodedInstructionGivesItBack : Prop :=
  ∀ (own : Nat) (i : Instr),
    (∀ w, encode own i = some w → decode own w = .ok i)
    ∧ ((∃ w, encode own i = some w) ↔ i.immediatesOk = true ∧ i.reachable own = true)

/-- For every index and every 32-bit word: if the decoder reads an instruction from it, that instruction encodes at that
index to that very word, so no field is dropped and no two words share a reading. (R89, R92, R93, D29) -/
def Obligations.EncodingADecodedWordGivesItBack : Prop :=
  ∀ (own : Nat) (w : Code) (i : Instr), decode own w = .ok i → encode own i = some w

/-- For every index and word, each of these is refused as no instruction: a B.cond word whose low five bits are above 13;
a word of one of the eight R-format ALU instructions (ADD, ADDS, SUB, SUBS, AND, ANDS, ORR, EOR) with non-zero shamt;
an LSL or LSR word with non-zero Rm; a BR word with a non-zero Rm, shamt or Rd; an FCMPS or FCMPD word with a shamt
other than 001000 or a non-zero Rd; a word of one of the eight ordinary loads and stores with op2 not 00; an LDXR word
with non-zero bits 20:10 (imm9 and op2); an STXR word with non-zero bits 15:10 (15:12 and op2). The word level is the
spec's own decision (D29, log 10). (R89, R92, R93, D29, U5) -/
def Obligations.ReservedWordsAreNoInstructions : Prop :=
  ∀ (own : Nat) (w : Code),
    (w.extractLsb' 24 8 = 0x54#8 → 13 < (w.extractLsb' 0 5).toNat → decode own w = .error .noSuchInstruction)
    ∧ (∀ op ∈ [0x458#11, 0x558#11, 0x658#11, 0x758#11, 0x450#11, 0x750#11, 0x550#11, 0x650#11],
      w.extractLsb' 21 11 = op → w.extractLsb' 10 6 ≠ 0#6 → decode own w = .error .noSuchInstruction)
    ∧ (∀ op ∈ [0x69B#11, 0x69A#11],
      w.extractLsb' 21 11 = op → w.extractLsb' 16 5 ≠ 0#5 → decode own w = .error .noSuchInstruction)
    ∧ (w.extractLsb' 21 11 = 0x6B0#11 → (w.extractLsb' 10 11 ≠ 0#11 ∨ w.extractLsb' 0 5 ≠ 0#5) →
      decode own w = .error .noSuchInstruction)
    ∧ (∀ op ∈ [0x0F1#11, 0x0F3#11], w.extractLsb' 21 11 = op →
      (w.extractLsb' 10 6 ≠ 0b001000#6 ∨ w.extractLsb' 0 5 ≠ 0#5) → decode own w = .error .noSuchInstruction)
    ∧ (∀ op ∈ [0x7C2#11, 0x5C4#11, 0x3C2#11, 0x1C2#11, 0x7C0#11, 0x5C0#11, 0x3C0#11, 0x1C0#11],
      w.extractLsb' 21 11 = op → w.extractLsb' 10 2 ≠ 0#2 → decode own w = .error .noSuchInstruction)
    ∧ (w.extractLsb' 21 11 = 0x642#11 → w.extractLsb' 10 11 ≠ 0#11 → decode own w = .error .noSuchInstruction)
    ∧ (w.extractLsb' 21 11 = 0x640#11 → w.extractLsb' 10 6 ≠ 0#6 → decode own w = .error .noSuchInstruction)

/-- One word of each format and family, as the spec's instruction rules give them, decodes at the index the rule states to
the instruction it stands for. The word level is the spec's own decision (D1, D29, log 10). (30_encoding R82 to R92,
41_arith R150 R157, R170, 43_shift_wide R190 R193, 44_load_store R205 R211, R222, 46_branch R231 R234 R235 R252, R262,
D1, D29) -/
def Obligations.ExampleWordsDecodeAsTheSpecSays : Prop :=
  decode 0 0x8B020023#32 = .ok (.add 3 1 2) ∧ decode 0 0xF100143F#32 = .ok (.subis 31 1 5)
  ∧ decode 0 0x8A030041#32 = .ok (.and 1 2 3)
  ∧ decode 0 0xD3601041#32 = .ok (.lsl 1 2 4) ∧ decode 0 0xF2A24681#32 = .ok (.movk 1 4660 16)
  ∧ decode 0 0xB89FC041#32 = .ok (.ldursw 1 2 (-4)) ∧ decode 0 0x380FF041#32 = .ok (.sturb 1 2 255)
  ∧ decode 0 0xC8090297#32 = .ok (.stxr 23 9 20) ∧ decode 2 0x14000003#32 = .ok (.b 5)
  ∧ decode 0 0xD60003C0#32 = .ok (.br 30) ∧ decode 3 0xB4FFFFC1#32 = .ok (.cbz 1 1)
  ∧ decode 2 0x5400002D#32 = .ok (.bLe 3) ∧ decode 0 0x1E222020#32 = .ok (.fcmps 1 2)

/-- The lines of a text end at newlines; the tokens of a line are separated by blanks, commas, brackets and colons, the
latter three being tokens; registers are exactly X0 to X30 and the six aliases, S0 to S31, D0 to D31, with no leading
zero; immediates are exactly # and decimal digits, with an optional minus sign between; a label name is a letter or
underscore followed by letters, digits and underscores. For every list of lines: if it compiles, the program has as
many records as lines; the record of line k has line number k+1, the control word of its mnemonic and the instruction
that line k spells: the row of R77 of its mnemonic, in upper or lower case, with the operands in their order, a wide
move without LSL having shift 0, CMP being SUBS and CMPI SUBIS with destination 31, MOV being ORR with first source
31, and a label the index of its line; every branch target is an index of the program. If every line spells an
instruction and no label is defined twice, the list compiles. If it does not compile there is at least one error,
there are no more errors than lines, and each names a line of the text. That lines are numbered from 1, blanks are
spaces and tabs, and labels, register names and immediates have these forms and no other is the model's choice (log
25), the place of XZR in MOV the spec's decision D32 (log 32), which error of a line is kept the model's choice (log
37). (R74, R76, R77, R78, R79, R80, 30_encoding R95 to R99, R101, R102, D32) -/
def Obligations.CompiledProgramsAreWellFormed : Prop :=
  (linesOf [] = [] ∧ (∀ a : Text, a ≠ [] → '\n' ∉ a → linesOf a = [a])
    ∧ ∀ a b : Text, '\n' ∉ a → linesOf (a ++ '\n' :: b) = a :: linesOf b)
  ∧ (tokensOf [] = []
    ∧ (∀ w : Text, w ≠ [] → (∀ c ∈ w, c ∉ [' ', '\t', ',', '[', ']', ':']) → tokensOf w = [w])
    ∧ (∀ (a b : Text), ∀ c ∈ [' ', '\t'], tokensOf (a ++ c :: b) = tokensOf a ++ tokensOf b)
    ∧ ∀ (a b : Text), ∀ c ∈ [',', '[', ']', ':'], tokensOf (a ++ c :: b) = tokensOf a ++ [c] :: tokensOf b)
  ∧ ((∀ (w : Text) (r : Reg), readX w = some r ↔ (r.val < 31 ∧ w = 'X' :: Nat.toDigits 10 r.val)
      ∨ (w, r) ∈ [("XZR".toList, 31), ("SP".toList, 28), ("FP".toList, 29), ("LR".toList, 30), ("IP0".toList, 16),
        ("IP1".toList, 17)])
    ∧ ∀ (c : Char) (w : Text) (r : FReg), readFloat c w = some r ↔ w = c :: Nat.toDigits 10 r.val)
  ∧ (∀ (w : Text) (v : Int), readImmediate w = some v ↔ ∃ ds : Text, ds ≠ [] ∧ (∀ c ∈ ds, '0' ≤ c ∧ c ≤ '9')
    ∧ ∃ u : Nat, u = ds.foldl (fun x c => 10 * x + (c.toNat - '0'.toNat)) 0
      ∧ ((w = '#' :: ds ∧ v = u) ∨ (w = '#' :: '-' :: ds ∧ v = -u)))
  ∧ (∀ w : Text, isLabelName w = true ↔ ∃ c cs, w = c :: cs
    ∧ (('a' ≤ c ∧ c ≤ 'z') ∨ ('A' ≤ c ∧ c ≤ 'Z') ∨ c = '_')
    ∧ ∀ x ∈ cs, ('a' ≤ x ∧ x ≤ 'z') ∨ ('A' ≤ x ∧ x ≤ 'Z') ∨ ('0' ≤ x ∧ x ≤ '9') ∨ x = '_')
  ∧ ∀ lines : List Text,
    (∀ p, compile lines = .ok p → Program.wf p = true ∧ p.records.length = lines.length
      ∧ ∀ (k : Nat) (r : Record), p.records[k]? = some r → r.line = k + 1
        ∧ ∃ line, lines[k]? = some line ∧ LineSpells lines line r.instr)
    ∧ ((∀ line ∈ lines, ∃ i, LineSpells lines line i) →
      (∀ name j k, LabelAt lines name j → LabelAt lines name k → j = k) → ∃ p, compile lines = .ok p)
    ∧ (∀ es, compile lines = .error es → es ≠ [] ∧ es.length ≤ lines.length
      ∧ ∀ e ∈ es, 1 ≤ e.line ∧ e.line ≤ lines.length)

/-- For every launch, engine and text: if the text compiles, loading it answers the reset state of its program when the
launch is legal for it and is refused when not; if it does not compile, loading answers, when the launch is legal for
no instruction, a state that lists the errors and has no program, and is refused when not (log 26). Every next state
of a load is one of the two: of the first no compile error is listed; the second lists at least one, and every step of
it, by either engine, leaves it as it is. (R101, R102, R301, R302, U23) -/
def Obligations.ATextWithErrorsNeverRuns : Prop :=
  ∀ (l : Launch) (e : Engine) (text : Text),
    (∀ p, compile (linesOf text) = .ok p →
      (l.legal p.records.length = true → loadText l e text = .next (State.loaded l e p))
      ∧ (l.legal p.records.length = false → loadText l e text = .refused .illegalLaunch))
    ∧ (∀ es, compile (linesOf text) = .error es →
      (l.legal 0 = true → ∃ s, loadText l e text = .next s ∧ s.compileErrors = es ∧ s.program.records = [])
      ∧ (l.legal 0 = false → loadText l e text = .refused .illegalLaunch))
    ∧ ∀ s, loadText l e text = .next s →
      (∃ p, compile (linesOf text) = .ok p ∧ s = State.loaded l e p ∧ s.compileErrors = [])
      ∨ (compile (linesOf text) = .error s.compileErrors ∧ s.compileErrors ≠ []
        ∧ executeInstruction s = .next s ∧ clock s = .next s ∧ ∀ k, steps k s = .next s)

/-- For every launch, engine and list of words: if the load answers a next state, it is the reset state of its program,
which is well formed and has as many records as words, record k being the instruction the decoder reads from word k at
index k with its own control word and the line k+1 (the model's choice, log 38). If every word decodes at its own
index to an instruction whose branch target, if any, is below the number of words, and the launch is legal, the load
answers a next state. If some word is no instruction, or a target is not below that number, or the launch is illegal,
the load is refused. (R77, R93, R102, R301, R302, D30, U23) -/
def Obligations.WordLoaderDecodesEveryWordOrRefuses : Prop :=
  ∀ (l : Launch) (e : Engine) (ws : List Code),
    (∀ s, loadWords l e ws = .next s → s = State.loaded l e s.program ∧ Program.wf s.program = true
      ∧ s.program.records.length = ws.length
      ∧ ∀ (k : Nat) (w : Code), ws[k]? = some w → ∃ r, s.program.records[k]? = some r ∧ decode k w = .ok r.instr
        ∧ r.ctrl = controlOf r.instr.mnemonic ∧ r.line = k + 1)
    ∧ ((∀ (k : Nat) (w : Code), ws[k]? = some w →
        ∃ i, decode k w = .ok i ∧ ∀ target, i.target? = some target → target < ws.length) →
      l.legal ws.length = true → ∃ s, loadWords l e ws = .next s)
    ∧ (∀ (k : Nat) (w : Code), ws[k]? = some w →
      ((∃ why, decode k w = .error why)
        ∨ ∃ i target, decode k w = .ok i ∧ i.target? = some target ∧ ws.length ≤ target) →
      ∃ x, loadWords l e ws = .refused x)
    ∧ (l.legal ws.length = false → ∃ x, loadWords l e ws = .refused x)

/-- In every state: in single-cycle mode clock is refused and executeInstruction is the machine's step; in pipelined mode
executeInstruction and run are refused and clock is the machine's step; run under fuel is so many steps. The register
and flag accessors show the CPU state in single-cycle mode and the visible snapshot in pipelined mode, an S register
being the low half of its D register; the index, program counter, branch-taken, STXR-success and error accessors show
the front end's. Which state the accessors show in pipelined mode is the spec's decision D25 (log 22). The refusal is
the spec's decision D43 (log 28), that a block without a program is refused by its engine too the model's choice (log
40); that the state holds the engine and that the machine's step is that engine's is the model's choice (log 4). (R11,
R16, R19, R28, R29, R306, R320, D25, D43, U21) -/
def Obligations.EnginesAreNotMixed : Prop :=
  ∀ (s : State) (fuel : Nat),
    (s.engine = .singleCycle → s.command .clock = .refused .mixedEngines
      ∧ s.command .executeInstruction = step s ∧ s.command (.run fuel) = run fuel s ∧ run fuel s = steps fuel s
      ∧ (∀ r, s.observeX r = s.readX r) ∧ (∀ r, s.observeD r = s.readD r) ∧ s.observeFlags = s.flags)
    ∧ (s.engine = .pipelined → s.command .clock = step s
      ∧ s.command .executeInstruction = .refused .mixedEngines ∧ s.command (.run fuel) = .refused .mixedEngines
      ∧ (∀ r, s.observeX r = if r = XZR then 0#64 else s.vis.x[r]) ∧ (∀ r, s.observeD r = s.vis.d[r])
      ∧ s.observeFlags = s.vis.flags)
    ∧ (∀ r, s.observeS r = (s.observeD r).setWidth 32) ∧ s.observeIndex = s.idx
    ∧ s.observePC = BitVec.ofNat 64 (s.params.textBase.toNat + 4 * s.idx) ∧ s.observeBranchTaken = s.branchTaken
    ∧ s.observeStxrSuccess = s.stxrSuccess ∧ s.observeError = s.err ∧ s.observeCompileErrors = s.compileErrors

/-- From every state with the core invariant, reached or not, every step of either engine leads to a state with it: the
memory list is canonical, the storage behind register 31 is 0, the address map is legal for the program, every record
of the program is well formed, and TEXT_BASE + 4*idx does not pass TEXT_LIMIT, so the program counter never wraps.
(R12, R19, R30, R40, R102) -/
def Obligations.EveryStepKeepsTheCoreInvariant : Prop :=
  ∀ s t : State, CoreInv s → step s = .next t → CoreInv t

/-- The reset state has both invariants, and so has the state right after loading any well-formed program under any legal
launch for either engine. (R31, R301, R302, R339) -/
def Obligations.InvariantsHoldAfterResetAndLoad : Prop :=
  CoreInv State.reset ∧ PipeInv State.reset
  ∧ ∀ (l : Launch) (e : Engine) (p : Program), l.legal p.records.length = true → Program.wf p = true →
    CoreInv (State.loaded l e p) ∧ PipeInv (State.loaded l e p)

/-- From every state with the pipeline invariant, reached or not, every clock tick leads to a state with it: the pipeline
registers, hazard flags and diagnostics are those of the buffer; the records in flight lead, each beginning where the
older one ended, from the visible snapshot to the front end's; and behind a taken branch in ID, IF holds a bubble or a
record that changes nothing. What the hazard flags and the diagnostics compute from the buffer is stated in
HazardDetectorsFollowTheShiftedBuffer. (R326, R327, R328, R329, R332, R333, R334, R335, R336, R337, R340) -/
def Obligations.EveryTickKeepsThePipelineInvariant : Prop :=
  ∀ s t : State, PipeInv s → clock s = .next t → PipeInv t

/-- For every state with no error and every next state of a tick, unless the tick faulted or found an ended program and an
empty buffer: MEM and WB receive the old EX and MEM; on a pending stall IF and ID hold and EX gets a bubble; else ID
receives the old IF (a bubble if this is a fetch under a pending flush), EX the old ID, and IF a bubble at the end of
the program; behind a taken branch fetched at index k - 1 the unexecuted record k with both snapshots the front end's
and its own fetch address, or a bubble exactly when there is no record k; else the record just executed. The visible
snapshot becomes the after-snapshot of the record leaving WB, and one line is logged: the mnemonics of the new IF, ID,
EX, MEM and WB, a bubble having none. The mechanics are the spec's decisions D17, D18, D23 (log 22) and D40 (log 27).
(R323, R324, R325, R326, R327, R328, R341, D17, D18, D23, D40) -/
def Obligations.ATickMovesTheBufferAsTheSpecWrites : Prop :=
  ∀ s t : State, s.err = none → clock s = .next t → t.err = none →
    (s.fetched = none → s.buf ≠ ⟨none, none, none, none, none⟩) →
    t.buf.slotMEM = s.buf.slotEX ∧ t.buf.slotWB = s.buf.slotMEM
    ∧ (s.stallNext = true → t.buf.slotIF = s.buf.slotIF ∧ t.buf.slotID = s.buf.slotID ∧ t.buf.slotEX = none
      ∧ SameFrontEnd s t)
    ∧ (s.stallNext = false → t.buf.slotEX = s.buf.slotID
      ∧ (s.fetched = none → t.buf.slotIF = none ∧ t.buf.slotID = s.buf.slotIF ∧ SameFrontEnd s t)
      ∧ (∀ r p, s.fetched = some r → s.buf.slotIF = some p → p.taken = true → t.buf.slotID = s.buf.slotIF
        ∧ SameFrontEnd s t ∧ ∀ k, k = (p.fetchPC - s.params.textBase).toNat / 4 + 1 →
          (s.program.records.length ≤ k → t.buf.slotIF = none)
          ∧ ∀ q, s.program.records[k]? = some q → t.buf.slotIF = some
            ⟨q, s.snapshot, s.snapshot, s.params.textBase + BitVec.ofNat 64 (4 * k), false⟩)
      ∧ (∀ r, s.fetched = some r → (∀ p, s.buf.slotIF = some p → p.taken = false) →
        t.buf.slotID = (if s.flushNext then none else s.buf.slotIF)
        ∧ t.buf.slotIF = some ⟨r, s.snapshot, t.snapshot, s.pc, t.branchTaken⟩))
    ∧ (∀ o, s.buf.slotWB = some o → t.vis = o.after) ∧ (s.buf.slotWB = none → t.vis = s.vis)
    ∧ t.tickLog = s.tickLog ++ [⟨mnemonicIn t.buf.slotIF, mnemonicIn t.buf.slotID, mnemonicIn t.buf.slotEX,
      mnemonicIn t.buf.slotMEM, mnemonicIn t.buf.slotWB⟩]

/-- From every state: after a clock tick the front end and memory are those before it, or those one executeInstruction of
the same state gives; and if the tick sets the error of a state that had none, nothing but the error has changed, no
slot of the buffer and not the visible snapshot. The fault behaviour is the spec's decisions D13 (log 13) and D24 (log
23). Which line the error holds is stated in AFaultingInstructionChangesOnlyTheError. (R283, R327, R342, R345, D24,
D13) -/
def Obligations.ATickExecutesAtMostOneInstruction : Prop :=
  ∀ s t : State, clock s = .next t →
    (SameFrontEnd s t ∨ ∃ c, executeInstruction s = .next c ∧ SameFrontEnd c t)
    ∧ (s.err = none → t.err ≠ none → ∃ f, FaultEntry s t f)

/-- From every state whose pipeline registers are those of its buffer: if a tick stalls and the next stalls too, the tick
after them does not. The lengths are consequences of the spec's decisions D17, D20 (log 22). (R335, R345, D17, D20) -/
def Obligations.StallsLastAtMostTwoTicks : Prop :=
  ∀ s t u : State, PipeRegs s → s.err = none → s.stallNext = true → clock s = .next t → t.stallNext = true →
    clock t = .next u → u.stallNext = false

/-- From every state of a pipelined run that has the pipeline invariant, no error and its index at or past the end of the
program: nine steps lead to a state with five bubbles whose visible registers and flags are those of the front end,
which has not changed. (Five slots and at most four stall ticks: the count rests on decisions D16 and D17, log 22.)
(R324, R328, R335, R343) -/
def Obligations.TheDrainEndsWithTheFrontEndVisible : Prop :=
  ∀ s : State, PipeInv s → s.engine = .pipelined → s.err = none → s.program.records.length ≤ s.idx →
    ∃ t, steps 9 s = .next t ∧ t.buf = ⟨none, none, none, none, none⟩ ∧ t.vis = t.snapshot ∧ SameFrontEnd s t

/-- For every state and every step of it: overwriting the two forwarding diagnostics, the three per-detector hazard flags,
the four pipeline registers and the tick log first leads to a next state that agrees with the original one in every
field but those. (R331, R335, R338, R341, R292) -/
def Obligations.DiagnosticsInfluenceNothing : Prop :=
  ∀ (s t : State) (fwd : Forward × Forward) (haz : Bool × Bool × Bool)
    (front back : Option StageFields × Option StageFields) (log : List TickLine), step s = .next t →
    ∃ t', step (s.withDiagnostics fwd haz front back log) = .next t'
      ∧ SameFrontEnd t t' ∧ t'.vis = t.vis ∧ t'.buf = t.buf ∧ t'.stallNext = t.stallNext
      ∧ t'.flushNext = t.flushNext ∧ t'.engine = t.engine ∧ t'.compileErrors = t.compileErrors

/-- For every launch and every program: after k ticks of the pipelined engine the front end and memory (the error
included) are those of the single-cycle engine after some j <= k steps, and the visible registers and flags are those
it had after some i <= j steps. (R4, R345, R346, R320, R328) -/
def Obligations.PipelinedRunsFollowTheSingleCycleRun : Prop :=
  ∀ (l : Launch) (p : Program) (k : Nat) (s : State), steps k (State.loaded l .pipelined p) = .next s →
    ∃ j, j ≤ k ∧ ∃ c, steps j (State.loaded l .singleCycle p) = .next c ∧ SameFrontEnd c s
      ∧ ∃ i, i ≤ j ∧ ∃ v, steps i (State.loaded l .singleCycle p) = .next v ∧ s.vis = v.snapshot

/-- For every launch and every program: if the single-cycle run ends successfully under some fuel, some number of
pipelined ticks from the same load leads to five bubbles with the visible registers and flags equal to those of the
ended run, and the same memory, index, monitor and no error. (R4, R343, R345, R306) -/
def Obligations.ASuccessfulRunDrainsToTheSameResult : Prop :=
  ∀ (l : Launch) (p : Program) (fuel : Nat) (c : State), run fuel (State.loaded l .singleCycle p) = .next c →
    c.succeeded → ∃ k s, steps k (State.loaded l .pipelined p) = .next s ∧ s.buf = ⟨none, none, none, none, none⟩
      ∧ s.vis = c.snapshot ∧ SameFrontEnd c s

/-- An operand token sequence that does not match errs at one member of the sequence, which is all it permits: the token
there is wrong and echoed, or the tokens end there and none is echoed. A token after a complete instruction is
unexpected and echoed, the end of the line being permitted, or also a comma after a wide move's immediate. An
immediate is accepted exactly when it is in its range, else its text and the range are echoed. An undefined label is
echoed with the defined ones. A line's parse error is that of its label's name, else that it has no instruction, else
the token that is no admitted mnemonic in upper or lower case, else that of its operands. Each error of a compile is
its line's parse error or, of a line that parses, a label defined before, an immediate of the line outside a range of
R79, or a label no line defines; and every parse error is reported. Which error of a line is kept, the kind of a bad
label name and the terms of the permitted set are the model's choice (log 37), and so are the duplicate label's error
and that of a line with no instruction (log 25). (R74, R75, R79, R80, R95, R96, R101, U7) -/
def Obligations.ParseErrorsCarryTheTokenAndThePermittedSet : Prop :=
  (∀ (es : List Alternative) (ts : List Text) (x : LineError), matchTokens es ts = .error x →
    ∃ k e, es[k]? = some e ∧ x.permitted = [e]
      ∧ ((x.kind = .invalidToken ∧ ts[k]? = some x.token) ∨ (x.kind = .missingTokens ∧ ts.length = k ∧ x.token = [])))
  ∧ (∀ (c : LetterCase) (form : OperandForm) (ts : List Text),
    (∀ x, matchTokens form.expected ts = .error x → parseOperands c form ts = .error x)
    ∧ ∀ os extra rest, matchTokens form.expected ts = .ok (os, extra :: rest) →
      ((∀ f, form ≠ .wide f) → parseOperands c form ts = .error ⟨.unexpectedToken, extra, [.endOfLine]⟩)
      ∧ (∀ f, form = .wide f → extra ≠ [','] →
        parseOperands c form ts = .error ⟨.unexpectedToken, extra, [.punct ',', .endOfLine]⟩)
      ∧ (∀ f, form = .wide f → extra = [','] →
        (∀ x, matchTokens (wideTail c) rest = .error x → parseOperands c form ts = .error x)
        ∧ ∀ tail more last, matchTokens (wideTail c) rest = .ok (tail, last :: more) →
          parseOperands c form ts = .error ⟨.unexpectedToken, last, [.endOfLine]⟩))
  ∧ (∀ (p : Permitted) (v : Int) (t : Text),
    (p.allows v = true → checkImmediate p v t = .ok v)
    ∧ (p.allows v = false → checkImmediate p v t = .error ⟨.immediateOutOfBounds, t, [.valueIn p]⟩))
  ∧ (∀ (table : List (Text × Nat)) (name : Text),
    (∀ i, table.lookup name = some i → resolveLabel table name = .ok i)
    ∧ (table.lookup name = none →
      resolveLabel table name = .error ⟨.undefinedLabel, name, table.map (fun d => .definedLabel d.1)⟩))
  ∧ (∀ (line : Text) (label : Option Text) (ts : List Text) (start : List Alternative),
    splitLabel (tokensOf line) = (label, ts) →
    start = (if label = none then [.mnemonic, .labelDefinition] else [.mnemonic]) →
    (∀ name, label = some name → isLabelName name = false → parseLine line = .error ⟨.invalidToken, name, [.labelName]⟩)
    ∧ ((∀ name, label = some name → isLabelName name = true) →
      (ts = [] → parseLine line = .error ⟨.missingTokens, [], start⟩)
      ∧ ∀ t rest, ts = t :: rest →
        ((∀ m ∈ sourceMnemonics, ∀ c, t ≠ inCase c m.spelling) →
          parseLine line = .error ⟨.unsupportedInstruction, t, start⟩)
        ∧ ∀ m ∈ sourceMnemonics, ∀ c, t = inCase c m.spelling →
          (∀ x, parseOperands c (sourceFormOf m) rest = .error x → parseLine line = .error x)
          ∧ ∀ os, parseOperands c (sourceFormOf m) rest = .ok os → parseLine line = .ok ⟨sourceFormOf m, os⟩))
  ∧ ∀ (lines : List Text) (es : List CompileError), compile lines = .error es →
    (∀ i line x, lines[i]? = some line → parseLine line = .error x → (⟨x.kind, i + 1, x.token, x.permitted⟩ : CompileError) ∈ es)
    ∧ ∀ e ∈ es, ∃ i line, e.line = i + 1 ∧ lines[i]? = some line
      ∧ (parseLine line = .error ⟨e.kind, e.token, e.permitted⟩
        ∨ (∃ p, parseLine line = .ok p)
          ∧ ((e.kind = .duplicateLabel ∧ e.permitted = [.newLabel] ∧ definedLabel line = some e.token
              ∧ ∃ j earlier, j < i ∧ lines[j]? = some earlier ∧ definedLabel earlier = some e.token)
            ∨ (e.kind = .immediateOutOfBounds ∧ e.token ∈ tokensOf line ∧ ∃ v, readImmediate e.token = some v
              ∧ ∃ p ∈ [permittedImm12, permittedOffset, permittedShift, permittedWide, permittedQuadrant,
                permittedExclusive], p.allows v = false ∧ e.permitted = [.valueIn p])
            ∨ (e.kind = .undefinedLabel ∧ e.token ∈ tokensOf line ∧ (∀ l ∈ lines, definedLabel l ≠ some e.token)
              ∧ ∀ a, a ∈ e.permitted ↔ ∃ l ∈ lines, ∃ name, definedLabel l = some name ∧ a = .definedLabel name)))

/-- For every instruction the fields src1, src2 and dest are the registers the table of R330 gives its group; its mnemonic
is its own; the control word of its mnemonic is the row of R112 of its class; its immediates are in order exactly in
the ranges of R79; a branch to a label has its label operand as target, any other instruction none; and a record is
well formed in a program of N exactly when its immediates are in order, its target is below N and its control word is
that of its mnemonic, a program when all its records are. A branch can be encoded exactly when its distance fits 26
bits of B and BL or 19 of the others. The register fields are the spec's decision D21, D22 (log 22); the columns of
R112 are its decision D26 (log 24). (R76, R77, R79, R90, R102, R110, R112, R329, R330, D21, D22, D26) -/
def Obligations.EachInstructionHasItsRowOfTheTables : Prop :=
  ∀ (d n m t s : Reg) (k q : Nat) (o : Int) (a b : FReg),
    (∀ i ∈ [Instr.add d n m, .adds d n m, .sub d n m, .subs d n m, .and d n m, .ands d n m, .orr d n m, .eor d n m],
      registerFields i = ⟨some n, some m, some d⟩)
    ∧ (∀ i ∈ [Instr.addi d n k, .addis d n k, .subi d n k, .subis d n k, .andi d n k, .andis d n k, .orri d n k,
        .eori d n k, .lsl d n k, .lsr d n k], registerFields i = ⟨some n, none, some d⟩)
    ∧ registerFields (.movz d k q) = ⟨none, none, some d⟩ ∧ registerFields (.movk d k q) = ⟨some d, none, some d⟩
    ∧ (∀ i ∈ [Instr.ldur t n o, .ldursw t n o, .ldurh t n o, .ldurb t n o, .ldxr t n],
      registerFields i = ⟨some n, none, some t⟩)
    ∧ (∀ i ∈ [Instr.stur t n o, .sturw t n o, .sturh t n o, .sturb t n o], registerFields i = ⟨some n, some t, none⟩)
    ∧ registerFields (.stxr t s n) = ⟨some n, some t, some s⟩
    ∧ (∀ i ∈ [Instr.cbz t k, .cbnz t k, .br t], registerFields i = ⟨some t, none, none⟩)
    ∧ (∀ i ∈ [Instr.bEq k, .bNe k, .bHs k, .bLo k, .bHi k, .bLs k, .bGe k, .bLt k, .bGt k, .bLe k, .bMi k, .bPl k,
        .bVs k, .bVc k, .b k, .fcmps a b, .fcmpd a b], registerFields i = ⟨none, none, none⟩)
    ∧ registerFields (.bl k) = ⟨none, none, some 30⟩
    ∧ (∀ p ∈ [(Instr.add d n m, Mnemonic.add), (.adds d n m, .adds), (.addi d n k, .addi), (.addis d n k, .addis),
        (.sub d n m, .sub), (.subs d n m, .subs), (.subi d n k, .subi), (.subis d n k, .subis), (.and d n m, .and),
        (.ands d n m, .ands), (.andi d n k, .andi), (.andis d n k, .andis), (.orr d n m, .orr), (.orri d n k, .orri),
        (.eor d n m, .eor), (.eori d n k, .eori), (.lsl d n k, .lsl), (.lsr d n k, .lsr), (.movz d k q, .movz),
        (.movk d k q, .movk)], p.1.mnemonic = p.2)
    ∧ (∀ p ∈ [(Instr.ldur t n o, Mnemonic.ldur), (.ldursw t n o, .ldursw), (.ldurh t n o, .ldurh), (.ldurb t n o, .ldurb),
        (.stur t n o, .stur), (.sturw t n o, .sturw), (.sturh t n o, .sturh), (.sturb t n o, .sturb), (.ldxr t n, .ldxr),
        (.stxr t s n, .stxr), (.br t, .br), (.fcmps a b, .fcmps), (.fcmpd a b, .fcmpd)],
      p.1.mnemonic = p.2 ∧ p.1.target? = none)
    ∧ (∀ p ∈ [(Instr.b k, Mnemonic.b), (.bl k, .bl), (.cbz t k, .cbz), (.cbnz t k, .cbnz), (.bEq k, .bEq), (.bNe k, .bNe),
        (.bHs k, .bHs), (.bLo k, .bLo), (.bHi k, .bHi), (.bLs k, .bLs), (.bGe k, .bGe), (.bLt k, .bLt), (.bGt k, .bGt),
        (.bLe k, .bLe), (.bMi k, .bMi), (.bPl k, .bPl), (.bVs k, .bVs), (.bVc k, .bVc)],
      p.1.mnemonic = p.2 ∧ p.1.target? = some k ∧ p.1.immediatesOk = true
      ∧ ∀ own, p.1.reachable own = true ↔ if p.2 = .b ∨ p.2 = .bl
        then -2 ^ 25 ≤ (k : Int) - own ∧ (k : Int) - own < 2 ^ 25 else -2 ^ 18 ≤ (k : Int) - own ∧ (k : Int) - own < 2 ^ 18)
    ∧ (∀ i ∈ [Instr.addi d n k, .addis d n k, .subi d n k, .subis d n k, .andi d n k, .andis d n k, .orri d n k,
        .eori d n k], (i.immediatesOk = true ↔ k ≤ 4095) ∧ i.target? = none)
    ∧ (∀ i ∈ [Instr.lsl d n k, .lsr d n k], (i.immediatesOk = true ↔ k ≤ 63) ∧ i.target? = none)
    ∧ (∀ i ∈ [Instr.movz d k q, .movk d k q],
      (i.immediatesOk = true ↔ k ≤ 65535 ∧ q ∈ [0, 16, 32, 48]) ∧ i.target? = none)
    ∧ (∀ i ∈ [Instr.ldur t n o, .ldursw t n o, .ldurh t n o, .ldurb t n o, .stur t n o, .sturw t n o, .sturh t n o,
        .sturb t n o], i.immediatesOk = true ↔ -256 ≤ o ∧ o ≤ 255)
    ∧ (∀ i ∈ [Instr.add d n m, .adds d n m, .sub d n m, .subs d n m, .and d n m, .ands d n m, .orr d n m, .eor d n m,
        .ldxr t n, .stxr t s n, .br t, .fcmps a b, .fcmpd a b], i.immediatesOk = true ∧ i.target? = none)
    ∧ (∀ x ∈ [Mnemonic.add, .sub, .and, .orr, .eor],
      controlOf x = ⟨.off, .off, .off, .off, .off, .off, .off, .off, .off, .op2, .on⟩)
    ∧ (∀ x ∈ [Mnemonic.adds, .subs, .ands],
      controlOf x = ⟨.off, .off, .off, .off, .off, .off, .off, .on, .off, .op2, .on⟩)
    ∧ (∀ x ∈ [Mnemonic.addi, .subi, .andi, .orri, .eori],
      controlOf x = ⟨.na, .off, .off, .off, .off, .off, .off, .off, .on, .op2, .on⟩)
    ∧ (∀ x ∈ [Mnemonic.addis, .subis, .andis],
      controlOf x = ⟨.na, .off, .off, .off, .off, .off, .off, .on, .on, .op2, .on⟩)
    ∧ (∀ x ∈ [Mnemonic.lsl, .lsr, .movz],
      controlOf x = ⟨.na, .off, .off, .off, .off, .off, .off, .off, .on, .op2, .on⟩)
    ∧ (∀ x ∈ [Mnemonic.movk], controlOf x = ⟨.on, .off, .off, .off, .off, .off, .off, .off, .on, .op2, .on⟩)
    ∧ (∀ x ∈ [Mnemonic.ldur, .ldursw, .ldurh, .ldurb, .ldxr],
      controlOf x = ⟨.na, .off, .off, .off, .on, .on, .off, .off, .on, .op0, .on⟩)
    ∧ (∀ x ∈ [Mnemonic.stur, .sturw, .sturh, .sturb],
      controlOf x = ⟨.on, .off, .off, .off, .off, .na, .on, .off, .on, .op0, .off⟩)
    ∧ (∀ x ∈ [Mnemonic.stxr], controlOf x = ⟨.on, .off, .off, .off, .off, .off, .on, .off, .on, .op0, .on⟩)
    ∧ (∀ x ∈ [Mnemonic.cbz, .cbnz], controlOf x = ⟨.on, .off, .off, .on, .off, .na, .off, .off, .off, .op1, .off⟩)
    ∧ (∀ x ∈ [Mnemonic.bEq, .bNe, .bHs, .bLo, .bHi, .bLs, .bGe, .bLt, .bGt, .bLe, .bMi, .bPl, .bVs, .bVc],
      controlOf x = ⟨.na, .off, .on, .off, .off, .na, .off, .off, .na, .na, .off⟩)
    ∧ (∀ x ∈ [Mnemonic.b, .br], controlOf x = ⟨.na, .on, .off, .off, .off, .na, .off, .off, .na, .na, .off⟩)
    ∧ (∀ x ∈ [Mnemonic.bl], controlOf x = ⟨.na, .on, .off, .off, .off, .off, .off, .off, .na, .na, .on⟩)
    ∧ (∀ x ∈ [Mnemonic.fcmps, .fcmpd], controlOf x = ⟨.off, .off, .off, .off, .off, .na, .off, .on, .off, .op2, .off⟩)
    ∧ (∀ (N : Nat) (r : Record), Record.wf N r = true ↔ r.instr.immediatesOk = true
      ∧ (∀ target, r.instr.target? = some target → target < N) ∧ r.ctrl = controlOf r.instr.mnemonic)
    ∧ ∀ p : Program, Program.wf p = true ↔ ∀ r ∈ p.records, Record.wf p.records.length r = true

/-- For every state with no error and every next state of a tick, unless the tick faulted or found an ended program and an
empty buffer: each pipeline register is empty for a bubble and else holds the mnemonic, control word and register
fields of its slot. The compare-branch hazard holds exactly when ID has CBZ or CBNZ of a register produced in EX or
MEM; the flag hazard exactly when ID has one of the fourteen conditional branches and EX or MEM has FlagWrite; the
load-use hazard exactly when a load in EX has a destination, not register 31, that is a source in ID; a stall follows
exactly when one of the three holds, with the first as its reason, and a flush exactly when ID holds a taken branch.
Each forwarding diagnostic is EXMEM exactly when MEM produces the source of the instruction in EX, MEMWB exactly when
WB does and MEM does not, else None. A slot produces a register when RegWrite is asserted and it is the destination
and not register 31. The readings are the spec's decisions D19, D20, D22, D33, D37 (log 22) and D14 (log 19). (R329,
R331, R332, R333, R334, R335, R336, R337, R339, R340, D20, D22) -/
def Obligations.HazardDetectorsFollowTheShiftedBuffer : Prop :=
  ∀ s t : State, s.err = none → clock s = .next t → t.err = none →
    (s.fetched = none → s.buf ≠ ⟨none, none, none, none, none⟩) →
    (∀ p ∈ [(t.ifid, t.buf.slotID), (t.idex, t.buf.slotEX), (t.exmem, t.buf.slotMEM), (t.memwb, t.buf.slotWB)],
      (p.2 = none → p.1 = none)
      ∧ ∀ r, p.2 = some r → p.1 = some ⟨r.record.instr.mnemonic, r.record.ctrl, (registerFields r.record.instr).src1,
        (registerFields r.record.instr).src2, (registerFields r.record.instr).dest⟩)
    ∧ (t.hazCB = true ↔ ∃ p r k, t.buf.slotID = some p ∧ (p.record.instr = .cbz r k ∨ p.record.instr = .cbnz r k)
      ∧ (ProducesIn t.buf.slotEX r ∨ ProducesIn t.buf.slotMEM r))
    ∧ (t.hazFlag = true ↔ ∃ p, t.buf.slotID = some p
      ∧ p.record.instr.mnemonic ∈ [.bEq, .bNe, .bHs, .bLo, .bHi, .bLs, .bGe, .bLt, .bGt, .bLe, .bMi, .bPl, .bVs, .bVc]
      ∧ ∃ q, (t.buf.slotEX = some q ∨ t.buf.slotMEM = some q) ∧ q.record.ctrl.flagWrite = .on)
    ∧ (t.hazLoad = true ↔ ∃ p q r, t.buf.slotID = some p ∧ t.buf.slotEX = some q ∧ q.record.ctrl.memRead = .on
      ∧ r ≠ XZR ∧ (registerFields q.record.instr).dest = some r
      ∧ ((registerFields p.record.instr).src1 = some r ∨ (registerFields p.record.instr).src2 = some r))
    ∧ (t.stallNext = true ↔ t.hazCB = true ∨ t.hazFlag = true ∨ t.hazLoad = true)
    ∧ (t.stallReason = some .compareBranch ↔ t.hazCB = true)
    ∧ (t.stallReason = some .flags ↔ t.hazCB = false ∧ t.hazFlag = true)
    ∧ (t.stallReason = some .loadUse ↔ t.hazCB = false ∧ t.hazFlag = false ∧ t.hazLoad = true)
    ∧ (t.flushNext = true ↔ ∃ p, t.buf.slotID = some p ∧ p.taken = true)
    ∧ (∀ f ∈ [(t.fwdA, RegisterFields.src1), (t.fwdB, RegisterFields.src2)],
      (f.1 = .exmem ↔ ∃ p r, t.buf.slotEX = some p ∧ f.2 (registerFields p.record.instr) = some r
        ∧ ProducesIn t.buf.slotMEM r)
      ∧ (f.1 = .memwb ↔ ∃ p r, t.buf.slotEX = some p ∧ f.2 (registerFields p.record.instr) = some r
        ∧ ProducesIn t.buf.slotWB r ∧ ¬ ProducesIn t.buf.slotMEM r))

end
end

