-- ==== Sys2Proof/Laws/Assembler.lean ====
section
/-!
SUPPORT. What the assembler's shared operations can answer: one token, the tail of a wide move, an immediate, a label, the
error of a line, the errors of a text, the decimal numbers.
-/

namespace Sys2Proof.Machine

/-- The only error of reading one token is that token, wrong for the one alternative permitted there. -/
theorem readToken_error {e : Alternative} {t : Text} {x : LineError} (h : readToken e t = .error x) :
    x = wrongToken [e] t := by
  cases e <;> simp only [readToken] at h <;> (try split at h) <;> cases h <;> rfl

@[simp] theorem wrongToken_kind (a : List Alternative) (t : Text) : (wrongToken a t).kind = .invalidToken := rfl
@[simp] theorem wrongToken_token (a : List Alternative) (t : Text) : (wrongToken a t).token = t := rfl
@[simp] theorem wrongToken_permitted (a : List Alternative) (t : Text) : (wrongToken a t).permitted = a := rfl
@[simp] theorem tokensMissing_kind (a : List Alternative) : (tokensMissing a).kind = .missingTokens := rfl
@[simp] theorem tokensMissing_token (a : List Alternative) : (tokensMissing a).token = [] := rfl
@[simp] theorem tokensMissing_permitted (a : List Alternative) : (tokensMissing a).permitted = a := rfl
@[simp] theorem extraToken_kind (a : List Alternative) (t : Text) : (extraToken a t).kind = .unexpectedToken := rfl
@[simp] theorem extraToken_token (a : List Alternative) (t : Text) : (extraToken a t).token = t := rfl
@[simp] theorem extraToken_permitted (a : List Alternative) (t : Text) : (extraToken a t).permitted = a := rfl
@[simp] theorem LineError.atIndex_kind (x : LineError) (i : Nat) : (x.atIndex i).kind = x.kind := rfl
@[simp] theorem LineError.atIndex_line (x : LineError) (i : Nat) : (x.atIndex i).line = i + 1 := rfl
@[simp] theorem LineError.atIndex_token (x : LineError) (i : Nat) : (x.atIndex i).token = x.token := rfl
@[simp] theorem LineError.atIndex_permitted (x : LineError) (i : Nat) : (x.atIndex i).permitted = x.permitted := rfl

/-- All that follows the immediate of a wide move: nothing, a matched `, LSL #q`, its error, an extra token after it, or
an extra token in place of the comma. -/
theorem parseWideTail_cases (k : LetterCase) (os : List Operand) (ts : List Text) :
    (ts = [] ∧ parseWideTail k os ts = .ok (os ++ [.imm 0 "#0".toList]))
    ∨ (∃ rest tail, ts = [','] :: rest ∧ matchTokens (wideTail k) rest = .ok (tail, [])
        ∧ parseWideTail k os ts = .ok (os ++ tail))
    ∨ (∃ rest x, ts = [','] :: rest ∧ matchTokens (wideTail k) rest = .error x ∧ parseWideTail k os ts = .error x)
    ∨ (∃ rest tail extra more, ts = [','] :: rest ∧ matchTokens (wideTail k) rest = .ok (tail, extra :: more)
        ∧ parseWideTail k os ts = .error (extraToken [.endOfLine] extra))
    ∨ (∃ t rest, ts = t :: rest ∧ t ≠ [','] ∧ parseWideTail k os ts = .error (extraToken [.punct ',', .endOfLine] t)) := by
  cases ts with
  | nil => exact .inl ⟨rfl, rfl⟩
  | cons t rest =>
    right
    by_cases ht : t = [',']
    · subst ht
      cases hm : matchTokens (wideTail k) rest with
      | error x => exact .inr (.inl ⟨rest, x, rfl, hm, by simp [parseWideTail, hm]⟩)
      | ok q =>
        obtain ⟨tail, more⟩ := q
        cases more with
        | nil => exact .inl ⟨rest, tail, rfl, hm, by simp [parseWideTail, hm]⟩
        | cons extra more => exact .inr (.inr (.inl ⟨rest, tail, extra, more, rfl, hm, by simp [parseWideTail, hm]⟩))
    · exact .inr (.inr (.inr ⟨t, rest, rfl, ht, by simp [parseWideTail, ht]⟩))

/-- The only error of an immediate is that it is outside its range. -/
theorem checkImmediate_error {p : Permitted} {v : Int} {t : Text} {x : LineError} (h : checkImmediate p v t = .error x) :
    p.allows v = false ∧ x = ⟨.immediateOutOfBounds, t, [.valueIn p]⟩ := by
  unfold checkImmediate at h
  split at h <;> cases h
  exact ⟨by simpa using ‹¬ p.allows v = true›, rfl⟩

/-- The only error of a label is that the table has none of its name. -/
theorem resolveLabel_error {table : List (Text × Nat)} {name : Text} {x : LineError}
    (h : resolveLabel table name = .error x) :
    table.lookup name = none ∧ x = ⟨.undefinedLabel, name, table.map (fun d => .definedLabel d.1)⟩ := by
  unfold resolveLabel at h
  split at h <;> cases h
  exact ⟨by assumption, rfl⟩

/-- A compile's errors are the errors of its lines. -/
theorem mem_compileFrom_errors (table : List (Text × Nat)) (lines : List Text) (b : Nat) (e : CompileError) :
    e ∈ (compileFrom table b lines).1
      ↔ ∃ i line, lines[i]? = some line ∧ compileLine table (b + i) line = .error e := by
  induction lines generalizing b with
  | nil => simp [compileFrom]
  | cons l ls ih =>
    have first : (∃ i line, (l :: ls)[i]? = some line ∧ compileLine table (b + i) line = .error e)
        ↔ compileLine table b l = .error e
          ∨ ∃ i line, ls[i]? = some line ∧ compileLine table (b + 1 + i) line = .error e := by
      constructor
      · rintro ⟨_ | j, line, hl, hc⟩
        · cases hl; exact .inl hc
        · exact .inr ⟨j, line, hl, by rwa [Nat.add_right_comm]⟩
      · rintro (h | ⟨j, line, hl, hc⟩)
        · exact ⟨0, l, rfl, h⟩
        · exact ⟨j + 1, line, hl, by rwa [Nat.add_right_comm] at hc⟩
    rw [first, ← ih]
    simp only [compileFrom]
    cases compileLine table b l <;> simp [eq_comm]

/-- All that a token can be where `e` is permitted. -/
theorem readToken_cases {e : Alternative} {t : Text} {o : Option Operand} (h : readToken e t = .ok o) :
    (e = .xReg ∧ ∃ r, readX t = some r ∧ o = some (.reg r))
    ∨ (e = .sReg ∧ ∃ r, readFloat 'S' t = some r ∧ o = some (.reg r))
    ∨ (e = .dReg ∧ ∃ r, readFloat 'D' t = some r ∧ o = some (.reg r))
    ∨ (e = .immediate ∧ ∃ v, readImmediate t = some v ∧ o = some (.imm v t))
    ∨ (e = .labelName ∧ isLabelName t = true ∧ o = some (.label t))
    ∨ (∃ c, e = .punct c ∧ t = [c] ∧ o = none)
    ∨ (∃ w, e = .spelled w ∧ t = w ∧ o = none) := by
  cases e <;> simp only [readToken] at h
  all_goals (try (cases h))
  all_goals (split at h <;> cases h)
  all_goals simp_all

/-- A sequence matches when its first token does and the rest does. -/
theorem matchTokens_cons_ok {e : Alternative} {es : List Alternative} {ts : List Text} {os : List Operand}
    {rest : List Text} (h : matchTokens (e :: es) ts = .ok (os, rest)) :
    ∃ t ts' o os', ts = t :: ts' ∧ readToken e t = .ok o ∧ matchTokens es ts' = .ok (os', rest)
      ∧ os = o.toList ++ os' := by
  cases ts with
  | nil => simp [matchTokens] at h
  | cons t ts =>
    simp only [matchTokens] at h
    cases hr : readToken e t with
    | error y => rw [hr] at h; cases h
    | ok o =>
      rw [hr] at h
      simp only at h
      cases hm : matchTokens es ts with
      | error y => rw [hm] at h; cases h
      | ok q => rw [hm] at h; cases h; exact ⟨t, ts, o, q.1, rfl, hr, hm, rfl⟩

/-- A mnemonic token is the spelling of the mnemonic in its case. -/
theorem readMnemonic_eq_some {t : Text} {m : SourceMnemonic} {k : LetterCase} (h : readMnemonic t = some (m, k)) :
    m ∈ sourceMnemonics ∧ t = inCase k m.spelling := by
  unfold readMnemonic at h
  split at h
  · rename_i m' hm
    cases h
    exact ⟨List.mem_of_find?_eq_some hm, by have hd := List.find?_some hm; simpa [inCase] using (of_decide_eq_true hd).symm⟩
  · split at h
    · rename_i m' hm
      cases h
      exact ⟨List.mem_of_find?_eq_some hm, by have hd := List.find?_some hm; exact (of_decide_eq_true hd).symm⟩
    · cases h

/-- A line defines the name before its colon, if it is well spelled. -/
theorem definedLabel_eq_some {line name : Text} :
    definedLabel line = some name ↔ ∃ rest, tokensOf line = name :: [':'] :: rest ∧ isLabelName name = true := by
  unfold definedLabel splitLabel
  constructor
  · intro h
    split at h
    · rename_i nm hs
      split at hs
      · rename_i a rest ht
        simp only [Option.some.injEq] at hs
        subst hs
        split at h <;> simp at h
        subst h
        exact ⟨rest, ht, by assumption⟩
      · simp at hs
    · cases h
  · rintro ⟨rest, h1, h2⟩
    simp [h1, h2]

/-- The branch table holds each defined label with the index of its line. -/
theorem mem_branchTableFrom (lines : List Text) (i : Nat) (name : Text) (k : Nat) :
    (name, k) ∈ branchTableFrom i lines
      ↔ ∃ j line, lines[j]? = some line ∧ k = i + j ∧ definedLabel line = some name := by
  induction lines generalizing i with
  | nil => simp [branchTableFrom]
  | cons l ls ih =>
    have first : (∃ j line, (l :: ls)[j]? = some line ∧ k = i + j ∧ definedLabel line = some name)
        ↔ (k = i ∧ definedLabel l = some name)
          ∨ ∃ j line, ls[j]? = some line ∧ k = (i + 1) + j ∧ definedLabel line = some name := by
      constructor
      · rintro ⟨_ | j, line, h1, h2, h3⟩
        · cases h1; exact .inl ⟨h2, h3⟩
        · exact .inr ⟨j, line, h1, by omega, h3⟩
      · rintro (⟨h1, h2⟩ | ⟨j, line, h1, h2, h3⟩)
        · exact ⟨0, l, rfl, h1, h2⟩
        · exact ⟨j + 1, line, h1, by omega, h3⟩
    rw [first, ← ih, branchTableFrom]
    cases definedLabel l with
    | none => simp
    | some n => simp [and_comm, eq_comm]

/-- A digit sequence is read exactly when it is decimal digits, as their value (log 25). -/
theorem decimalFrom_eq_some (ds : Text) : ∀ acc n, decimalFrom acc ds = some n ↔ (∀ c ∈ ds, '0' ≤ c ∧ c ≤ '9') ∧ n = ds.foldl (fun u c => 10 * u + (c.toNat - '0'.toNat)) acc := by
  induction ds with
  | nil => intro acc n; simp [decimalFrom, eq_comm]
  | cons c cs ih =>
    intro acc n
    simp only [decimalFrom, List.mem_cons, forall_eq_or_imp, List.foldl_cons]
    by_cases hc : isDecimal c = true
    · rw [if_pos hc, ih]
      have : '0' ≤ c ∧ c ≤ '9' := by simpa [isDecimal] using hc
      simp [this]
    · rw [if_neg hc]
      have : ¬ ('0' ≤ c ∧ c ≤ '9') := by simpa [isDecimal] using hc
      constructor
      · intro h; cases h
      · rintro ⟨⟨h, _⟩, _⟩; exact absurd h this

/-- A number is read exactly of decimal digits, at least one. -/
theorem readDecimal_eq_some (ds : Text) (n : Nat) : readDecimal ds = some n ↔ ds ≠ [] ∧ (∀ c ∈ ds, '0' ≤ c ∧ c ≤ '9') ∧ n = ds.foldl (fun u c => 10 * u + (c.toNat - '0'.toNat)) 0 := by
  unfold readDecimal
  cases ds with
  | nil => simp
  | cons c cs => rw [if_neg (by simp), decimalFrom_eq_some]; simp

/-- A decimal digit is the digit of a number below 10. -/
theorem digit_of_decimal (c : Char) (h : '0' ≤ c ∧ c ≤ '9') : ∃ k < 10, c = Nat.digitChar k ∧ c.toNat - '0'.toNat = k := by
  have h1 : 48 ≤ c.toNat := h.1
  have h2 : c.toNat ≤ 57 := h.2
  refine ⟨c.toNat - 48, by omega, ?_, rfl⟩
  have : c = Char.ofNat c.toNat := (Char.ofNat_toNat c).symm
  generalize c.toNat = n at *
  subst this
  interval_cases n <;> decide

/-- More digits make no smaller a value. -/
theorem le_digits_value (ds : Text) : ∀ acc, acc ≤ ds.foldl (fun u c => 10 * u + (c.toNat - '0'.toNat)) acc := by
  induction ds with
  | nil => intro acc; exact Nat.le_refl _
  | cons c cs ih => intro acc; refine le_trans ?_ (ih _); show acc ≤ 10 * acc + _; omega

/-- A register number is spelled by its decimal digits and by no other text (log 25). -/
theorem readIndex_eq_some (ds : Text) (n : Nat) (hn : n < 32) : readIndex ds = some n ↔ ds = Nat.toDigits 10 n := by
  constructor
  · intro h
    unfold readIndex at h
    split at h
    · cases h
    · rename_i hz
      obtain ⟨h0, h1, h2⟩ := (readDecimal_eq_some _ _).1 h
      match ds, h0, h1, h2, hz with
      | [c], _, h1, h2, _ =>
        obtain ⟨k, hk, rfl, hv⟩ := digit_of_decimal c (h1 c (by simp))
        have hv' := hv
        simp only [List.foldl_cons, List.foldl_nil] at h2
        rw [hv] at h2; simp at h2; subst h2
        interval_cases n <;> decide
      | [c, d], _, h1, h2, hz =>
        obtain ⟨k, hk, rfl, hv⟩ := digit_of_decimal c (h1 c (by simp))
        obtain ⟨l, hl, rfl, hw⟩ := digit_of_decimal d (h1 d (by simp))
        simp only [List.foldl_cons, List.foldl_nil] at h2
        rw [hv, hw] at h2
        have : k ≠ 0 := by rintro rfl; exact hz (Nat.digitChar l) [] rfl
        have hk3 : k ≤ 3 := by omega
        subst h2
        interval_cases k <;> interval_cases l <;> first | decide | omega
      | c :: d :: e :: r, _, h1, h2, hz =>
        obtain ⟨k, hk, rfl, hv⟩ := digit_of_decimal c (h1 c (by simp))
        have : k ≠ 0 := by rintro rfl; exact hz d (e :: r) rfl
        have h3 := le_digits_value r (10 * (10 * (10 * 0 + ((Nat.digitChar k).toNat - '0'.toNat)) + (d.toNat - '0'.toNat)) + (e.toNat - '0'.toNat))
        simp only [List.foldl_cons] at h2
        rw [← h2] at h3; rw [hv] at h3; omega
  · rintro rfl; interval_cases n <;> decide

end Sys2Proof.Machine
end

