-- ==== Sys2Proof/Laws/Decode.lean ====
section
/-!
SUPPORT. The encoding: no two rows of the opcode table overlap, a word that matches a row decodes by that row, and the
fields of a word built by a format are what the format put there.
-/

namespace Sys2Proof

/-! ## The opcode table -/

/-- For any two rows of the table some bit, fixed in both, differs (30_encoding R92). -/
theorem opcodeTable_disjoint :
    opcodeTable.Pairwise (fun r q => r.mask &&& q.mask &&& (r.pattern ^^^ q.pattern) ≠ 0#32) := by decide

/-- Two rows that match one word agree on every bit both fix. -/
theorem OpcodeRow.agree_of_admits {r q : OpcodeRow} {w : Code} (hr : r.admits w = true) (hq : q.admits w = true) :
    r.mask &&& q.mask &&& (r.pattern ^^^ q.pattern) = 0#32 := by
  simp only [OpcodeRow.admits, decide_eq_true_eq] at hr hq
  rw [← hr, ← hq]
  apply BitVec.eq_of_getLsbD_eq
  intro k hk
  simp only [BitVec.getLsbD_and, BitVec.getLsbD_xor, BitVec.getLsbD_zero]
  cases w.getLsbD k <;> cases r.mask.getLsbD k <;> cases q.mask.getLsbD k <;> rfl

/-- A word matches at most one row (30_encoding R92). -/
theorem opcodeTable_unique {r q : OpcodeRow} {w : Code} (hr : r ∈ opcodeTable) (hq : q ∈ opcodeTable)
    (ar : r.admits w = true) (aq : q.admits w = true) : r = q := by
  by_contra hne
  refine @List.Pairwise.forall _ _ _ ⟨fun x y h => ?_⟩ opcodeTable_disjoint r hr q hq hne (OpcodeRow.agree_of_admits ar aq)
  rwa [BitVec.and_comm y.mask, BitVec.xor_comm y.pattern]

/-- The decoder finds the row a word matches. -/
theorem opcodeTable_find {r : OpcodeRow} {w : Code} (hr : r ∈ opcodeTable) (ar : r.admits w = true) :
    opcodeTable.find? (fun q => q.admits w) = some r := by
  cases h : opcodeTable.find? (fun q => q.admits w) with
  | none => simpa [ar] using List.find?_eq_none.mp h r hr
  | some q =>
    rw [opcodeTable_unique hr (List.mem_of_find?_eq_some h) ar (by simpa using List.find?_some h)]

/-- A word that matches a row decodes to that row's mnemonic with the operands of its fields. -/
theorem decode_of_admits {r : OpcodeRow} {own : Nat} {w : Code} {i : Instr} (hr : r ∈ opcodeTable)
    (ar : r.admits w = true) (h : operandsOf r.mnemonic own w = some i) : decode own w = .ok i := by
  rw [decode, opcodeTable_find hr ar]
  simp only [h]

/-- What the decoder answers comes from the one row the word matches. -/
theorem decode_inversion {own : Nat} {w : Code} {i : Instr} (h : decode own w = .ok i) :
    ∃ r ∈ opcodeTable, r.admits w = true ∧ operandsOf r.mnemonic own w = some i := by
  rw [decode] at h
  cases hf : opcodeTable.find? (fun q => q.admits w) with
  | none => rw [hf] at h; cases h
  | some r =>
    rw [hf] at h
    refine ⟨r, List.mem_of_find?_eq_some hf, by simpa using List.find?_some hf, ?_⟩
    cases ho : operandsOf r.mnemonic own w with
    | none => simp only [ho] at h; cases h
    | some j => simp only [ho] at h; cases h; rfl

/-! ## Fields of each format -/

/-- A register number goes into a field and comes out. -/
@[simp] theorem toFin_ofFin (i : Fin 32) : (BitVec.ofFin (w := 5) i).toFin = i := rfl

section
variable (op : BitVec 11) (rm rn rd rs rt : Fin 32) (shamt : Nat)

@[simp] theorem fieldRd_wordR : fieldRd (wordR op rm shamt rn rd) = rd := by
  rw [fieldRd, wordR, BitVec.extractLsb'_append_eq_of_add_le (by omega), BitVec.extractLsb'_eq_self, toFin_ofFin]

@[simp] theorem fieldRn_wordR : fieldRn (wordR op rm shamt rn rd) = rn := by
  rw [fieldRn, wordR, BitVec.extractLsb'_append_eq_of_le (by omega), BitVec.extractLsb'_append_eq_of_add_le (by omega),
    BitVec.extractLsb'_eq_self, toFin_ofFin]

@[simp] theorem fieldRm_wordR : fieldRm (wordR op rm shamt rn rd) = rm := by
  rw [fieldRm, wordR, BitVec.extractLsb'_append_eq_of_le (by omega), BitVec.extractLsb'_append_eq_of_le (by omega),
    BitVec.extractLsb'_append_eq_of_le (by omega), BitVec.extractLsb'_append_eq_of_add_le (by omega),
    BitVec.extractLsb'_eq_self, toFin_ofFin]

@[simp] theorem fieldShamt_wordR : fieldShamt (wordR op rm shamt rn rd) = shamt % 64 := by
  rw [fieldShamt, wordR, BitVec.extractLsb'_append_eq_of_le (by omega), BitVec.extractLsb'_append_eq_of_le (by omega),
    BitVec.extractLsb'_append_eq_of_add_le (by omega), BitVec.extractLsb'_eq_self, BitVec.toNat_ofNat]

variable (op : BitVec 10) (imm : Nat)

@[simp] theorem fieldRd_wordI : fieldRd (wordI op imm rn rd) = rd := by
  rw [fieldRd, wordI, BitVec.extractLsb'_append_eq_of_add_le (by omega), BitVec.extractLsb'_eq_self, toFin_ofFin]

@[simp] theorem fieldRn_wordI : fieldRn (wordI op imm rn rd) = rn := by
  rw [fieldRn, wordI, BitVec.extractLsb'_append_eq_of_le (by omega), BitVec.extractLsb'_append_eq_of_add_le (by omega),
    BitVec.extractLsb'_eq_self, toFin_ofFin]

@[simp] theorem fieldImm12_wordI : fieldImm12 (wordI op imm rn rd) = imm % 4096 := by
  rw [fieldImm12, wordI, BitVec.extractLsb'_append_eq_of_le (by omega), BitVec.extractLsb'_append_eq_of_le (by omega),
    BitVec.extractLsb'_append_eq_of_add_le (by omega), BitVec.extractLsb'_eq_self, BitVec.toNat_ofNat]

variable (op : BitVec 11) (off : Int)

@[simp] theorem fieldRd_wordD : fieldRd (wordD op off rn rt) = rt := by
  rw [fieldRd, wordD, BitVec.extractLsb'_append_eq_of_add_le (by omega), BitVec.extractLsb'_eq_self, toFin_ofFin]

@[simp] theorem fieldRn_wordD : fieldRn (wordD op off rn rt) = rn := by
  rw [fieldRn, wordD, BitVec.extractLsb'_append_eq_of_le (by omega), BitVec.extractLsb'_append_eq_of_add_le (by omega),
    BitVec.extractLsb'_eq_self, toFin_ofFin]

@[simp] theorem fieldImm9_wordD : fieldImm9 (wordD op off rn rt) = off.bmod 512 := by
  rw [fieldImm9, wordD, BitVec.extractLsb'_append_eq_of_le (by omega), BitVec.extractLsb'_append_eq_of_le (by omega),
    BitVec.extractLsb'_append_eq_of_le (by omega), BitVec.extractLsb'_append_eq_of_add_le (by omega),
    BitVec.extractLsb'_eq_self, BitVec.toInt_ofInt]

@[simp] theorem fieldRd_wordX : fieldRd (wordX op rs rn rt) = rt := by
  rw [fieldRd, wordX, BitVec.extractLsb'_append_eq_of_add_le (by omega), BitVec.extractLsb'_eq_self, toFin_ofFin]

@[simp] theorem fieldRn_wordX : fieldRn (wordX op rs rn rt) = rn := by
  rw [fieldRn, wordX, BitVec.extractLsb'_append_eq_of_le (by omega), BitVec.extractLsb'_append_eq_of_add_le (by omega),
    BitVec.extractLsb'_eq_self, toFin_ofFin]

@[simp] theorem fieldRm_wordX : fieldRm (wordX op rs rn rt) = rs := by
  rw [fieldRm, wordX, BitVec.extractLsb'_append_eq_of_le (by omega), BitVec.extractLsb'_append_eq_of_le (by omega),
    BitVec.extractLsb'_append_eq_of_le (by omega), BitVec.extractLsb'_append_eq_of_add_le (by omega),
    BitVec.extractLsb'_eq_self, toFin_ofFin]

variable (op : BitVec 6) (own target : Nat)

/-- The distance B and BL hold, as the signed value of its 26 bits. -/
@[simp] theorem fieldTarget26_wordB :
    fieldTarget26 own (wordB op own target) = targetIndex own (((target : Int) - own).bmod (2 ^ 26)) := by
  rw [fieldTarget26, wordB, BitVec.extractLsb'_append_eq_of_add_le (by omega), BitVec.extractLsb'_eq_self,
    BitVec.toInt_ofInt]

variable (op : BitVec 8) (low : BitVec 5)

@[simp] theorem fieldRd_wordCB : fieldRd (wordCB op own target low) = low.toFin := by
  rw [fieldRd, wordCB, BitVec.extractLsb'_append_eq_of_add_le (by omega), BitVec.extractLsb'_eq_self]

/-- The distance CBZ, CBNZ and B.cond hold, as the signed value of its 19 bits. -/
@[simp] theorem fieldTarget19_wordCB :
    fieldTarget19 own (wordCB op own target low) = targetIndex own (((target : Int) - own).bmod (2 ^ 19)) := by
  rw [fieldTarget19, wordCB, BitVec.extractLsb'_append_eq_of_le (by omega),
    BitVec.extractLsb'_append_eq_of_add_le (by omega), BitVec.extractLsb'_eq_self, BitVec.toInt_ofInt]

variable (op : BitVec 9) (q : Nat)

@[simp] theorem fieldRd_wordIM : fieldRd (wordIM op q imm rd) = rd := by
  rw [fieldRd, wordIM, BitVec.extractLsb'_append_eq_of_add_le (by omega), BitVec.extractLsb'_eq_self, toFin_ofFin]

@[simp] theorem fieldImm16_wordIM : fieldImm16 (wordIM op q imm rd) = imm % 65536 := by
  rw [fieldImm16, wordIM, BitVec.extractLsb'_append_eq_of_le (by omega),
    BitVec.extractLsb'_append_eq_of_add_le (by omega), BitVec.extractLsb'_eq_self, BitVec.toNat_ofNat]

@[simp] theorem fieldQuadrant_wordIM : fieldQuadrant (wordIM op q imm rd) = 16 * (q / 16 % 4) := by
  rw [fieldQuadrant, wordIM, BitVec.extractLsb'_append_eq_of_le (by omega),
    BitVec.extractLsb'_append_eq_of_le (by omega), BitVec.extractLsb'_append_eq_of_add_le (by omega),
    BitVec.extractLsb'_eq_self, BitVec.toNat_ofNat]

end

/-! ## Distances -/

/-- A target that is its own index plus the distance is found again. -/
theorem targetIndex_sub (own target : Nat) : targetIndex own ((target : Int) - own) = some target := by
  rw [targetIndex, if_pos (by omega)]
  congr 1
  omega

/-- A distance that fits its signed field survives it. -/
theorem bmod_of_fits (d : Int) (b : Nat) (lo : -(2 ^ b : Int) ≤ d) (hi : d < (2 ^ b : Int)) :
    d.bmod (2 ^ (b + 1)) = d := by
  apply Int.bmod_eq_of_le <;> push_cast <;> rw [pow_succ] <;> omega

/-- The distances a branch to a label can encode (30_encoding R90). -/
theorem Instr.reachable_iff {i : Instr} {own target : Nat} (h : i.target? = some target) :
    i.reachable own = true ↔ -(2 ^ (i.displacementBits - 1) : Int) ≤ (target : Int) - own
      ∧ (target : Int) - own < 2 ^ (i.displacementBits - 1) := by
  unfold Instr.reachable
  rw [h, Bool.and_eq_true, decide_eq_true_iff, decide_eq_true_iff]

/-! ## What each mask leaves of a word -/

/-- Format R, eight ALU rows: opcode and shamt are fixed (30_encoding R89). -/
theorem wordR_and_alu (op : BitVec 11) (rm : Fin 32) (sh : Nat) (rn rd : Fin 32) :
    wordR op rm sh rn rd &&& 0xFFE0FC00#32 = op ++ 0#5 ++ BitVec.ofNat 6 sh ++ 0#5 ++ 0#5 := by
  rw [show 0xFFE0FC00#32 = BitVec.allOnes 11 ++ 0#5 ++ BitVec.allOnes 6 ++ 0#5 ++ 0#5 by decide, wordR]
  refine BitVec.and_append.trans ?_
  simp only [BitVec.and_append, BitVec.and_zero, BitVec.and_allOnes]

/-- Format R, LSL and LSR: opcode and Rm are fixed. -/
theorem wordR_and_shift (op : BitVec 11) (rm : Fin 32) (sh : Nat) (rn rd : Fin 32) :
    wordR op rm sh rn rd &&& 0xFFFF0000#32 = op ++ BitVec.ofFin (w := 5) rm ++ 0#6 ++ 0#5 ++ 0#5 := by
  rw [show 0xFFFF0000#32 = BitVec.allOnes 11 ++ BitVec.allOnes 5 ++ 0#6 ++ 0#5 ++ 0#5 by decide, wordR]
  refine BitVec.and_append.trans ?_
  simp only [BitVec.and_append, BitVec.and_zero, BitVec.and_allOnes]

/-- Format R, BR: all but Rn is fixed. -/
theorem wordR_and_br (op : BitVec 11) (rm : Fin 32) (sh : Nat) (rn rd : Fin 32) :
    wordR op rm sh rn rd &&& 0xFFFFFC1F#32 = op ++ BitVec.ofFin (w := 5) rm ++ BitVec.ofNat 6 sh ++ 0#5 ++ BitVec.ofFin (w := 5) rd := by
  rw [show 0xFFFFFC1F#32 = BitVec.allOnes 11 ++ BitVec.allOnes 5 ++ BitVec.allOnes 6 ++ 0#5 ++ BitVec.allOnes 5 by decide, wordR]
  refine BitVec.and_append.trans ?_
  simp only [BitVec.and_append, BitVec.and_zero, BitVec.and_allOnes]

/-- Format R, FCMPS and FCMPD: opcode, shamt and Rd are fixed. -/
theorem wordR_and_fcmp (op : BitVec 11) (rm : Fin 32) (sh : Nat) (rn rd : Fin 32) :
    wordR op rm sh rn rd &&& 0xFFE0FC1F#32 = op ++ 0#5 ++ BitVec.ofNat 6 sh ++ 0#5 ++ BitVec.ofFin (w := 5) rd := by
  rw [show 0xFFE0FC1F#32 = BitVec.allOnes 11 ++ 0#5 ++ BitVec.allOnes 6 ++ 0#5 ++ BitVec.allOnes 5 by decide, wordR]
  refine BitVec.and_append.trans ?_
  simp only [BitVec.and_append, BitVec.and_zero, BitVec.and_allOnes]

/-- Format I: the opcode is fixed. -/
theorem wordI_and (op : BitVec 10) (imm : Nat) (rn rd : Fin 32) :
    wordI op imm rn rd &&& 0xFFC00000#32 = op ++ 0#12 ++ 0#5 ++ 0#5 := by
  rw [show 0xFFC00000#32 = BitVec.allOnes 10 ++ 0#12 ++ 0#5 ++ 0#5 by decide, wordI]
  refine BitVec.and_append.trans ?_
  simp only [BitVec.and_append, BitVec.and_zero, BitVec.and_allOnes]

/-- Format D: opcode and op2 are fixed. -/
theorem wordD_and (op : BitVec 11) (off : Int) (rn rt : Fin 32) :
    wordD op off rn rt &&& 0xFFE00C00#32 = op ++ 0#9 ++ 0#2 ++ 0#5 ++ 0#5 := by
  rw [show 0xFFE00C00#32 = BitVec.allOnes 11 ++ 0#9 ++ BitVec.allOnes 2 ++ 0#5 ++ 0#5 by decide, wordD]
  refine BitVec.and_append.trans ?_
  simp only [BitVec.and_append, BitVec.and_zero, BitVec.and_allOnes]

/-- Format D, LDXR: bits 31:10 are fixed. -/
theorem wordX_and_ldxr (op : BitVec 11) (rs rn rt : Fin 32) :
    wordX op rs rn rt &&& 0xFFFFFC00#32 = op ++ BitVec.ofFin (w := 5) rs ++ 0#6 ++ 0#5 ++ 0#5 := by
  rw [show 0xFFFFFC00#32 = BitVec.allOnes 11 ++ BitVec.allOnes 5 ++ BitVec.allOnes 6 ++ 0#5 ++ 0#5 by decide, wordX]
  refine BitVec.and_append.trans ?_
  simp only [BitVec.and_append, BitVec.and_zero, BitVec.and_allOnes]

/-- Format D, STXR: opcode and bits 15:10 are fixed. -/
theorem wordX_and_stxr (op : BitVec 11) (rs rn rt : Fin 32) :
    wordX op rs rn rt &&& 0xFFE0FC00#32 = op ++ 0#5 ++ 0#6 ++ 0#5 ++ 0#5 := by
  rw [show 0xFFE0FC00#32 = BitVec.allOnes 11 ++ 0#5 ++ BitVec.allOnes 6 ++ 0#5 ++ 0#5 by decide, wordX]
  refine BitVec.and_append.trans ?_
  simp only [BitVec.and_append, BitVec.and_zero, BitVec.and_allOnes]

/-- Format B: the opcode is fixed. -/
theorem wordB_and (op : BitVec 6) (own target : Nat) :
    wordB op own target &&& 0xFC000000#32 = op ++ 0#26 := by
  rw [show 0xFC000000#32 = BitVec.allOnes 6 ++ 0#26 by decide, wordB]
  refine BitVec.and_append.trans ?_
  simp only [BitVec.and_zero, BitVec.and_allOnes]

/-- Format CB, CBZ and CBNZ: the opcode is fixed. -/
theorem wordCB_and (op : BitVec 8) (own target : Nat) (low : BitVec 5) :
    wordCB op own target low &&& 0xFF000000#32 = op ++ 0#19 ++ 0#5 := by
  rw [show 0xFF000000#32 = BitVec.allOnes 8 ++ 0#19 ++ 0#5 by decide, wordCB]
  refine BitVec.and_append.trans ?_
  simp only [BitVec.and_append, BitVec.and_zero, BitVec.and_allOnes]

/-- Format CB, B.cond: opcode and condition are fixed. -/
theorem wordCB_and_cond (op : BitVec 8) (own target : Nat) (low : BitVec 5) :
    wordCB op own target low &&& 0xFF00001F#32 = op ++ 0#19 ++ low := by
  rw [show 0xFF00001F#32 = BitVec.allOnes 8 ++ 0#19 ++ BitVec.allOnes 5 by decide, wordCB]
  refine BitVec.and_append.trans ?_
  simp only [BitVec.and_append, BitVec.and_zero, BitVec.and_allOnes]

/-- Format IM: the opcode is fixed. -/
theorem wordIM_and (op : BitVec 9) (q imm : Nat) (rd : Fin 32) :
    wordIM op q imm rd &&& 0xFF800000#32 = op ++ 0#2 ++ 0#16 ++ 0#5 := by
  rw [show 0xFF800000#32 = BitVec.allOnes 9 ++ 0#2 ++ 0#16 ++ 0#5 by decide, wordIM]
  refine BitVec.and_append.trans ?_
  simp only [BitVec.and_append, BitVec.and_zero, BitVec.and_allOnes]

end Sys2Proof
end

