-- ==== Sys2Proof/Laws/Memory.lean ====
section
/-!
SUPPORT. The data memory: its canonical form is kept by every operation, a byte read after a byte write, and what
storing or loading a run of bytes does to every address.
-/

namespace Sys2Proof

/-! ## One byte -/

/-- A memory canonical from a later address is canonical from an earlier one. -/
theorem Memory.wfFrom_mono {m : Memory} {lo lo' : Nat} (h : Memory.wfFrom lo m = true) (hl : lo' ≤ lo) :
    Memory.wfFrom lo' m = true := by
  cases m with
  | nil => rfl
  | cons c m =>
    simp only [Memory.wfFrom, Bool.and_eq_true, decide_eq_true_eq] at h ⊢
    exact ⟨⟨⟨Nat.le_trans hl h.1.1.1, h.1.1.2⟩, h.1.2⟩, h.2⟩

/-- Below the address a memory is canonical from, every byte reads as 0. -/
theorem Memory.readByte_of_lt {m : Memory} {lo k : Nat} (h : Memory.wfFrom lo m = true) (hk : k < lo) :
    m.readByte k = 0#8 := by
  induction m generalizing lo with
  | nil => rfl
  | cons c m ih =>
    obtain ⟨a, v⟩ := c
    simp only [Memory.wfFrom, Bool.and_eq_true, decide_eq_true_eq] at h
    have hne : ¬ k = a := by omega
    rw [Memory.readByte, if_neg hne]
    exact ih h.2 (by omega)

/-- The general form of `Memory.wf_writeByte`: writing at or above `lo` keeps the form from `lo` on. -/
theorem Memory.wfFrom_writeByte {m : Memory} {lo k : Nat} (v : Byte) (h : Memory.wfFrom lo m = true)
    (hk : lo ≤ k) (hb : k < 2 ^ 64) : Memory.wfFrom lo (m.writeByte k v) = true := by
  induction m generalizing lo with
  | nil =>
    unfold Memory.writeByte
    split
    · rfl
    · simp_all [Memory.wfFrom]
  | cons c m ih =>
    obtain ⟨a, b⟩ := c
    have h' := h
    simp only [Memory.wfFrom, Bool.and_eq_true, decide_eq_true_eq] at h
    unfold Memory.writeByte
    by_cases hlt : k < a
    · rw [if_pos hlt]
      split
      · exact h'
      · simp only [Memory.wfFrom, Bool.and_eq_true, decide_eq_true_eq]
        exact ⟨⟨⟨hk, hb⟩, ‹_›⟩, ⟨⟨⟨hlt, h.1.1.2⟩, h.1.2⟩, h.2⟩⟩
    · rw [if_neg hlt]
      by_cases heq : k = a
      · rw [if_pos heq]
        split
        · exact Memory.wfFrom_mono h.2 (by omega)
        · simp only [Memory.wfFrom, Bool.and_eq_true, decide_eq_true_eq]
          exact ⟨⟨⟨h.1.1.1, h.1.1.2⟩, ‹_›⟩, h.2⟩
      · rw [if_neg heq]
        simp only [Memory.wfFrom, Bool.and_eq_true, decide_eq_true_eq]
        exact ⟨⟨⟨h.1.1.1, h.1.1.2⟩, h.1.2⟩, ih h.2 (by omega)⟩

/-- Writing a byte keeps the canonical form. -/
theorem Memory.wf_writeByte {m : Memory} {k : Nat} (v : Byte) (h : Memory.wf m = true) (hb : k < 2 ^ 64) :
    Memory.wf (m.writeByte k v) = true := Memory.wfFrom_writeByte v h (Nat.zero_le k) hb

/-- A byte read after a byte write, from any lower bound of the form. -/
theorem Memory.readByte_writeByte_from {m : Memory} {lo : Nat} (h : Memory.wfFrom lo m = true) (k j : Nat) (v : Byte) :
    (m.writeByte k v).readByte j = if j = k then v else m.readByte j := by
  induction m generalizing lo with
  | nil =>
    unfold Memory.writeByte
    by_cases hv : v = 0#8
    · simp [hv, Memory.readByte]
    · simp [hv, Memory.readByte]
  | cons c m ih =>
    obtain ⟨a, b⟩ := c
    simp only [Memory.wfFrom, Bool.and_eq_true, decide_eq_true_eq] at h
    have below : ∀ i, i < a + 1 → Memory.readByte m i = 0#8 := fun i hi => Memory.readByte_of_lt h.2 hi
    unfold Memory.writeByte
    by_cases hlt : k < a
    · rw [if_pos hlt]
      by_cases hv : v = 0#8
      · rw [if_pos hv]
        by_cases hjk : j = k
        · rw [if_pos hjk, Memory.readByte, if_neg (by omega), below j (by omega), hv]
        · rw [if_neg hjk]
      · rw [if_neg hv, Memory.readByte]
    · rw [if_neg hlt]
      by_cases heq : k = a
      · rw [if_pos heq]
        by_cases hv : v = 0#8
        · rw [if_pos hv]
          by_cases hjk : j = k
          · rw [if_pos hjk, below j (by omega), hv]
          · rw [if_neg hjk, Memory.readByte, if_neg (by omega)]
        · rw [if_neg hv]
          by_cases hjk : j = k
          · rw [if_pos hjk, Memory.readByte, if_pos (by omega)]
          · rw [if_neg hjk, Memory.readByte, Memory.readByte, if_neg (by omega), if_neg (by omega)]
      · rw [if_neg heq]
        simp only [Memory.readByte]
        by_cases hja : j = a
        · rw [if_pos hja, if_neg (by omega), if_pos hja]
        · rw [if_neg hja, ih h.2, if_neg hja]

/-- A byte read after a byte write: the written address reads the value, every other address as before. -/
theorem Memory.readByte_writeByte {m : Memory} (h : Memory.wf m = true) (k j : Nat) (v : Byte) :
    (m.writeByte k v).readByte j = if j = k then v else m.readByte j := Memory.readByte_writeByte_from h k j v

/-! ## Runs of bytes -/

/-- Storing a run of bytes keeps the canonical form. -/
theorem Memory.wf_storeBytes (bs : List Byte) : ∀ {m : Memory} (a : Word), Memory.wf m = true →
    Memory.wf (m.storeBytes a bs) = true := by
  induction bs with
  | nil => intro m a h; exact h
  | cons b bs ih =>
    intro m a h
    exact ih (a + 1) (Memory.wf_writeByte b h a.isLt)

/-- Storing a run of bytes leaves every address outside the run as it was. -/
theorem Memory.readByte_storeBytes_of_ne (bs : List Byte) : ∀ {m : Memory} (a : Word) (k : Nat), Memory.wf m = true →
    (∀ i, i < bs.length → k ≠ (a + BitVec.ofNat 64 i).toNat) → (m.storeBytes a bs).readByte k = m.readByte k := by
  induction bs with
  | nil => intro m a k _ _; rfl
  | cons b bs ih =>
    intro m a k h hk
    have h0 : k ≠ a.toNat := by simpa using hk 0 (by simp)
    rw [Memory.storeBytes, ih (a + 1) k (Memory.wf_writeByte b h a.isLt) ?_, Memory.readByte_writeByte h, if_neg h0]
    intro i hi
    have := hk (i + 1) (by simpa using hi)
    rwa [show a + 1 + BitVec.ofNat 64 i = a + BitVec.ofNat 64 (i + 1) by
      apply BitVec.eq_of_toNat_eq; simp [BitVec.toNat_add]; omega]

/-- Storing a run of at most `2^64` bytes puts byte `i` at address `a + i`. -/
theorem Memory.readByte_storeBytes (bs : List Byte) : ∀ {m : Memory} (a : Word) (i : Nat) (hi : i < bs.length),
    Memory.wf m = true → bs.length ≤ 2 ^ 64 →
    (m.storeBytes a bs).readByte (a + BitVec.ofNat 64 i).toNat = bs[i] := by
  induction bs with
  | nil => intro m a i hi; exact absurd hi (by simp)
  | cons b bs ih =>
    intro m a i hi h hl
    simp only [List.length_cons] at hi hl
    rw [Memory.storeBytes]
    cases i with
    | zero =>
      rw [show (a + BitVec.ofNat 64 0).toNat = a.toNat by simp,
        Memory.readByte_storeBytes_of_ne bs (a + 1) _ (Memory.wf_writeByte b h a.isLt) ?_,
        Memory.readByte_writeByte h, if_pos rfl]
      · rfl
      · intro i hi'
        have ha := a.isLt
        rw [show a + 1 + BitVec.ofNat 64 i = a + BitVec.ofNat 64 (i + 1) by
          apply BitVec.eq_of_toNat_eq; simp [BitVec.toNat_add]; omega]
        rw [BitVec.toNat_add, BitVec.toNat_ofNat]
        omega
    | succ i =>
      have := ih (m := m.writeByte a.toNat b) (a + 1) i (by omega) (Memory.wf_writeByte b h a.isLt) (by omega)
      rw [show a + 1 + BitVec.ofNat 64 i = a + BitVec.ofNat 64 (i + 1) by
        apply BitVec.eq_of_toNat_eq; simp [BitVec.toNat_add]; omega] at this
      rw [this, List.getElem_cons_succ]

/-- Loading a run gives as many bytes as asked. -/
@[simp] theorem Memory.length_loadBytes (m : Memory) (n : Nat) : ∀ a : Word, (m.loadBytes a n).length = n := by
  induction n with
  | zero => intro a; rfl
  | succ n ih => intro a; simp [Memory.loadBytes, ih]

/-- Byte `i` of a loaded run is the byte at address `a + i`. -/
theorem Memory.getElem_loadBytes (m : Memory) (n : Nat) : ∀ (a : Word) (i : Nat) (hi : i < (m.loadBytes a n).length),
    (m.loadBytes a n)[i] = m.readByte (a + BitVec.ofNat 64 i).toNat := by
  induction n with
  | zero => intro a i hi; exact absurd hi (by simp)
  | succ n ih =>
    intro a i hi
    cases i with
    | zero => simp [Memory.loadBytes]
    | succ i =>
      have hi' : i < (m.loadBytes (a + 1) n).length := by simpa using hi
      simp only [Memory.loadBytes, List.getElem_cons_succ]
      rw [ih (a + 1) i hi', show a + 1 + BitVec.ofNat 64 i = a + BitVec.ofNat 64 (i + 1) by
        apply BitVec.eq_of_toNat_eq; simp [BitVec.toNat_add]; omega]

/-- Storing and then loading the same run of at most `2^64` bytes gives the bytes back. -/
theorem Memory.loadBytes_storeBytes {m : Memory} (a : Word) (bs : List Byte) (h : Memory.wf m = true)
    (hl : bs.length ≤ 2 ^ 64) : (m.storeBytes a bs).loadBytes a bs.length = bs := by
  apply List.ext_getElem
  · simp
  · intro i h1 h2
    rw [Memory.getElem_loadBytes, Memory.readByte_storeBytes bs a i h2 h hl]

/-! ## Byte order -/

/-- A value gives as many bytes as asked. -/
@[simp] theorem length_toBigEndian (v : Word) (n : Nat) : (toBigEndian v n).length = n := by
  induction n with
  | zero => rfl
  | succ n ih => simp [toBigEndian, ih]

/-- Byte `i` of the low `n` bytes is `v[8(n-i)-1 : 8(n-i-1)]` (20_memory R48). -/
theorem getElem_toBigEndian (v : Word) (n : Nat) : ∀ (i : Nat) (hi : i < (toBigEndian v n).length),
    (toBigEndian v n)[i] = v.extractLsb' (8 * (n - 1 - i)) 8 := by
  induction n with
  | zero => intro i hi; exact absurd hi (by simp)
  | succ n ih =>
    intro i hi
    cases i with
    | zero => simp [toBigEndian]
    | succ i =>
      have hi' : i < (toBigEndian v n).length := by simpa using hi
      simp only [toBigEndian, List.getElem_cons_succ]
      rw [ih i hi']
      congr 1
      omega

/-- Folding the bytes of a value into an accumulator: the general form of `fromBigEndian_toBigEndian`. -/
theorem foldl_toBigEndian (v : Word) (n : Nat) : ∀ acc : Word,
    (toBigEndian v n).foldl (fun (acc : Word) (b : Byte) => (acc <<< 8) ||| b.setWidth 64) acc
      = (acc <<< (8 * n)) ||| (v.setWidth (8 * n)).setWidth 64 := by
  induction n with
  | zero => intro acc; rw [show v.setWidth (8 * 0) = 0#0 from BitVec.eq_nil _]; simp [toBigEndian]
  | succ n ih =>
    intro acc
    rw [toBigEndian, List.foldl_cons, ih]
    apply BitVec.eq_of_getLsbD_eq
    intro k hk
    simp only [BitVec.getLsbD_or, BitVec.getLsbD_shiftLeft, BitVec.getLsbD_setWidth, BitVec.getLsbD_extractLsb']
    by_cases h1 : k < 8 * n
    · have : k < 8 * (n + 1) := by omega
      simp [h1, this, hk]
    · by_cases h2 : k < 8 * (n + 1)
      · have h3 : k - 8 * n < 8 := by omega
        have h4 : k - 8 * n < 64 := by omega
        have h5 : 8 * n + (k - 8 * n) = k := by omega
        simp [h1, h2, h3, h4, h5, hk]
      · have h3 : ¬ k - 8 * n < 8 := by omega
        have h4 : k - 8 * n - 8 = k - 8 * (n + 1) := by omega
        have h6 : k - 8 * n < 64 := by omega
        simp [h1, h2, h3, h4, h6, hk]

/-- The low `n` bytes, put in order and read back: the low `8n` bits of the value. -/
theorem fromBigEndian_toBigEndian (v : Word) (n : Nat) :
    fromBigEndian (toBigEndian v n) = (v.setWidth (8 * n)).setWidth 64 := by
  rw [fromBigEndian, foldl_toBigEndian]; simp

/-- Bit `k` after folding a byte list into an accumulator. -/
theorem foldl_getLsbD (bs : List Byte) : ∀ (acc : Word) (k : Nat), k < 64 →
   (bs.foldl (fun (acc : Word) (b : Byte) => (acc <<< 8) ||| b.setWidth 64) acc).getLsbD k =
    if h : k < 8 * bs.length then (bs[bs.length - 1 - k / 8]'(by omega)).getLsbD (k % 8) else acc.getLsbD (k - 8 * bs.length) := by
  induction bs with
  | nil => intro acc k hk; simp
  | cons b bs ih =>
    intro acc k hk
    rw [List.foldl_cons, ih _ k hk]
    by_cases h1 : k < 8 * bs.length
    · have h2 : k < 8 * (b :: bs).length := by simp; omega
      rw [dif_pos h1, dif_pos h2]
      have h3 : (b :: bs).length - 1 - k / 8 = (bs.length - 1 - k / 8) + 1 := by simp; omega
      simp only [h3, List.getElem_cons_succ]
    · rw [dif_neg h1]
      by_cases h2 : k < 8 * (b :: bs).length
      · rw [dif_pos h2]
        simp only [List.length_cons] at h2
        have h3 : (b :: bs).length - 1 - k / 8 = 0 := by simp; omega
        have h4 : k % 8 = k - 8 * bs.length := by omega
        have h5 : k - 8 * bs.length < 8 := by omega
        have h6 : k - 8 * bs.length < 64 := by omega
        simp only [h3, List.getElem_cons_zero, h4]
        simp [h5, h6]
      · rw [dif_neg h2]
        simp only [List.length_cons] at h2 ⊢
        have h5 : ¬ k - 8 * bs.length < 8 := by omega
        have h6 : k - 8 * bs.length < 64 := by omega
        have h7 : k - 8 * bs.length - 8 = k - 8 * (bs.length + 1) := by omega
        have h8 : b.getLsbD (k - 8 * bs.length) = false := BitVec.getLsbD_of_ge _ _ (by omega)
        simp only [BitVec.getLsbD_or, BitVec.getLsbD_shiftLeft, BitVec.getLsbD_setWidth, h8, h6, h7, h5]
        simp

/-- Bit `k` of a byte list's value lies in the byte counted from the end, the most significant byte first
(20_memory R47). -/
theorem fromBigEndian_getLsbD (bs : List Byte) (k : Nat) (hk : k < 64) (h : k < 8 * bs.length) :
    (fromBigEndian bs).getLsbD k = (bs[bs.length - 1 - k / 8]'(by omega)).getLsbD (k % 8) := by
  rw [fromBigEndian, foldl_getLsbD bs _ k hk, dif_pos h]
/-- A byte list's value has no bit above its bytes. -/
theorem fromBigEndian_getLsbD_high (bs : List Byte) (k : Nat) (h : 8 * bs.length ≤ k) :
    (fromBigEndian bs).getLsbD k = false := by
  by_cases hk : k < 64
  · rw [fromBigEndian, foldl_getLsbD bs _ k hk, dif_neg (by omega)]; simp
  · simp [BitVec.getLsbD_of_ge _ _ (by omega : 64 ≤ k)]

end Sys2Proof
end

