-- ==== Sys2Proof/Laws/State.lean ====
section
/-!
SUPPORT. One lemma per field per update of the state, and the reads through an update: later proofs unfold no
record update.
-/

namespace Sys2Proof.Machine

/-! ## `State.writeX` -/

@[simp] theorem State.writeX_x (s : State) (i : Reg) (v : Word) : (s.writeX i v).x = (if i = XZR then s.x else s.x.set i v) := rfl
@[simp] theorem State.writeX_d (s : State) (i : Reg) (v : Word) : (s.writeX i v).d = s.d := rfl
@[simp] theorem State.writeX_flags (s : State) (i : Reg) (v : Word) : (s.writeX i v).flags = s.flags := rfl
@[simp] theorem State.writeX_idx (s : State) (i : Reg) (v : Word) : (s.writeX i v).idx = s.idx := rfl
@[simp] theorem State.writeX_mon (s : State) (i : Reg) (v : Word) : (s.writeX i v).mon = s.mon := rfl
@[simp] theorem State.writeX_branchTaken (s : State) (i : Reg) (v : Word) : (s.writeX i v).branchTaken = s.branchTaken := rfl
@[simp] theorem State.writeX_stxrSuccess (s : State) (i : Reg) (v : Word) : (s.writeX i v).stxrSuccess = s.stxrSuccess := rfl
@[simp] theorem State.writeX_err (s : State) (i : Reg) (v : Word) : (s.writeX i v).err = s.err := rfl
@[simp] theorem State.writeX_mem (s : State) (i : Reg) (v : Word) : (s.writeX i v).mem = s.mem := rfl
@[simp] theorem State.writeX_program (s : State) (i : Reg) (v : Word) : (s.writeX i v).program = s.program := rfl
@[simp] theorem State.writeX_compileErrors (s : State) (i : Reg) (v : Word) : (s.writeX i v).compileErrors = s.compileErrors := rfl
@[simp] theorem State.writeX_params (s : State) (i : Reg) (v : Word) : (s.writeX i v).params = s.params := rfl
@[simp] theorem State.writeX_engine (s : State) (i : Reg) (v : Word) : (s.writeX i v).engine = s.engine := rfl
@[simp] theorem State.writeX_buf (s : State) (i : Reg) (v : Word) : (s.writeX i v).buf = s.buf := rfl
@[simp] theorem State.writeX_vis (s : State) (i : Reg) (v : Word) : (s.writeX i v).vis = s.vis := rfl
@[simp] theorem State.writeX_ifid (s : State) (i : Reg) (v : Word) : (s.writeX i v).ifid = s.ifid := rfl
@[simp] theorem State.writeX_idex (s : State) (i : Reg) (v : Word) : (s.writeX i v).idex = s.idex := rfl
@[simp] theorem State.writeX_exmem (s : State) (i : Reg) (v : Word) : (s.writeX i v).exmem = s.exmem := rfl
@[simp] theorem State.writeX_memwb (s : State) (i : Reg) (v : Word) : (s.writeX i v).memwb = s.memwb := rfl
@[simp] theorem State.writeX_stallNext (s : State) (i : Reg) (v : Word) : (s.writeX i v).stallNext = s.stallNext := rfl
@[simp] theorem State.writeX_flushNext (s : State) (i : Reg) (v : Word) : (s.writeX i v).flushNext = s.flushNext := rfl
@[simp] theorem State.writeX_hazCB (s : State) (i : Reg) (v : Word) : (s.writeX i v).hazCB = s.hazCB := rfl
@[simp] theorem State.writeX_hazFlag (s : State) (i : Reg) (v : Word) : (s.writeX i v).hazFlag = s.hazFlag := rfl
@[simp] theorem State.writeX_hazLoad (s : State) (i : Reg) (v : Word) : (s.writeX i v).hazLoad = s.hazLoad := rfl
@[simp] theorem State.writeX_fwdA (s : State) (i : Reg) (v : Word) : (s.writeX i v).fwdA = s.fwdA := rfl
@[simp] theorem State.writeX_fwdB (s : State) (i : Reg) (v : Word) : (s.writeX i v).fwdB = s.fwdB := rfl
@[simp] theorem State.writeX_tickLog (s : State) (i : Reg) (v : Word) : (s.writeX i v).tickLog = s.tickLog := rfl

@[simp] theorem State.writeX_readD (s : State) (i : Reg) (v : Word) (r : FReg) : (s.writeX i v).readD r = s.readD r := rfl
@[simp] theorem State.writeX_readS (s : State) (i : Reg) (v : Word) (r : FReg) : (s.writeX i v).readS r = s.readS r := rfl
@[simp] theorem State.writeX_currentLine (s : State) (i : Reg) (v : Word) : (s.writeX i v).currentLine = s.currentLine := rfl
@[simp] theorem State.writeX_fetched (s : State) (i : Reg) (v : Word) : (s.writeX i v).fetched = s.fetched := rfl
@[simp] theorem State.writeX_pc (s : State) (i : Reg) (v : Word) : (s.writeX i v).pc = s.pc := rfl

/-! ## `State.setFlags` -/

@[simp] theorem State.setFlags_x (s : State) (f : Flags) : (s.setFlags f).x = s.x := rfl
@[simp] theorem State.setFlags_d (s : State) (f : Flags) : (s.setFlags f).d = s.d := rfl
@[simp] theorem State.setFlags_flags (s : State) (f : Flags) : (s.setFlags f).flags = (f) := rfl
@[simp] theorem State.setFlags_idx (s : State) (f : Flags) : (s.setFlags f).idx = s.idx := rfl
@[simp] theorem State.setFlags_mon (s : State) (f : Flags) : (s.setFlags f).mon = s.mon := rfl
@[simp] theorem State.setFlags_branchTaken (s : State) (f : Flags) : (s.setFlags f).branchTaken = s.branchTaken := rfl
@[simp] theorem State.setFlags_stxrSuccess (s : State) (f : Flags) : (s.setFlags f).stxrSuccess = s.stxrSuccess := rfl
@[simp] theorem State.setFlags_err (s : State) (f : Flags) : (s.setFlags f).err = s.err := rfl
@[simp] theorem State.setFlags_mem (s : State) (f : Flags) : (s.setFlags f).mem = s.mem := rfl
@[simp] theorem State.setFlags_program (s : State) (f : Flags) : (s.setFlags f).program = s.program := rfl
@[simp] theorem State.setFlags_compileErrors (s : State) (f : Flags) : (s.setFlags f).compileErrors = s.compileErrors := rfl
@[simp] theorem State.setFlags_params (s : State) (f : Flags) : (s.setFlags f).params = s.params := rfl
@[simp] theorem State.setFlags_engine (s : State) (f : Flags) : (s.setFlags f).engine = s.engine := rfl
@[simp] theorem State.setFlags_buf (s : State) (f : Flags) : (s.setFlags f).buf = s.buf := rfl
@[simp] theorem State.setFlags_vis (s : State) (f : Flags) : (s.setFlags f).vis = s.vis := rfl
@[simp] theorem State.setFlags_ifid (s : State) (f : Flags) : (s.setFlags f).ifid = s.ifid := rfl
@[simp] theorem State.setFlags_idex (s : State) (f : Flags) : (s.setFlags f).idex = s.idex := rfl
@[simp] theorem State.setFlags_exmem (s : State) (f : Flags) : (s.setFlags f).exmem = s.exmem := rfl
@[simp] theorem State.setFlags_memwb (s : State) (f : Flags) : (s.setFlags f).memwb = s.memwb := rfl
@[simp] theorem State.setFlags_stallNext (s : State) (f : Flags) : (s.setFlags f).stallNext = s.stallNext := rfl
@[simp] theorem State.setFlags_flushNext (s : State) (f : Flags) : (s.setFlags f).flushNext = s.flushNext := rfl
@[simp] theorem State.setFlags_hazCB (s : State) (f : Flags) : (s.setFlags f).hazCB = s.hazCB := rfl
@[simp] theorem State.setFlags_hazFlag (s : State) (f : Flags) : (s.setFlags f).hazFlag = s.hazFlag := rfl
@[simp] theorem State.setFlags_hazLoad (s : State) (f : Flags) : (s.setFlags f).hazLoad = s.hazLoad := rfl
@[simp] theorem State.setFlags_fwdA (s : State) (f : Flags) : (s.setFlags f).fwdA = s.fwdA := rfl
@[simp] theorem State.setFlags_fwdB (s : State) (f : Flags) : (s.setFlags f).fwdB = s.fwdB := rfl
@[simp] theorem State.setFlags_tickLog (s : State) (f : Flags) : (s.setFlags f).tickLog = s.tickLog := rfl

@[simp] theorem State.setFlags_readX (s : State) (f : Flags) (r : Reg) : (s.setFlags f).readX r = s.readX r := rfl
@[simp] theorem State.setFlags_readD (s : State) (f : Flags) (r : FReg) : (s.setFlags f).readD r = s.readD r := rfl
@[simp] theorem State.setFlags_readS (s : State) (f : Flags) (r : FReg) : (s.setFlags f).readS r = s.readS r := rfl
@[simp] theorem State.setFlags_currentLine (s : State) (f : Flags) : (s.setFlags f).currentLine = s.currentLine := rfl
@[simp] theorem State.setFlags_fetched (s : State) (f : Flags) : (s.setFlags f).fetched = s.fetched := rfl
@[simp] theorem State.setFlags_pc (s : State) (f : Flags) : (s.setFlags f).pc = s.pc := rfl

/-! ## `State.setMem` -/

@[simp] theorem State.setMem_x (s : State) (m : Memory) : (s.setMem m).x = s.x := rfl
@[simp] theorem State.setMem_d (s : State) (m : Memory) : (s.setMem m).d = s.d := rfl
@[simp] theorem State.setMem_flags (s : State) (m : Memory) : (s.setMem m).flags = s.flags := rfl
@[simp] theorem State.setMem_idx (s : State) (m : Memory) : (s.setMem m).idx = s.idx := rfl
@[simp] theorem State.setMem_mon (s : State) (m : Memory) : (s.setMem m).mon = s.mon := rfl
@[simp] theorem State.setMem_branchTaken (s : State) (m : Memory) : (s.setMem m).branchTaken = s.branchTaken := rfl
@[simp] theorem State.setMem_stxrSuccess (s : State) (m : Memory) : (s.setMem m).stxrSuccess = s.stxrSuccess := rfl
@[simp] theorem State.setMem_err (s : State) (m : Memory) : (s.setMem m).err = s.err := rfl
@[simp] theorem State.setMem_mem (s : State) (m : Memory) : (s.setMem m).mem = (m) := rfl
@[simp] theorem State.setMem_program (s : State) (m : Memory) : (s.setMem m).program = s.program := rfl
@[simp] theorem State.setMem_compileErrors (s : State) (m : Memory) : (s.setMem m).compileErrors = s.compileErrors := rfl
@[simp] theorem State.setMem_params (s : State) (m : Memory) : (s.setMem m).params = s.params := rfl
@[simp] theorem State.setMem_engine (s : State) (m : Memory) : (s.setMem m).engine = s.engine := rfl
@[simp] theorem State.setMem_buf (s : State) (m : Memory) : (s.setMem m).buf = s.buf := rfl
@[simp] theorem State.setMem_vis (s : State) (m : Memory) : (s.setMem m).vis = s.vis := rfl
@[simp] theorem State.setMem_ifid (s : State) (m : Memory) : (s.setMem m).ifid = s.ifid := rfl
@[simp] theorem State.setMem_idex (s : State) (m : Memory) : (s.setMem m).idex = s.idex := rfl
@[simp] theorem State.setMem_exmem (s : State) (m : Memory) : (s.setMem m).exmem = s.exmem := rfl
@[simp] theorem State.setMem_memwb (s : State) (m : Memory) : (s.setMem m).memwb = s.memwb := rfl
@[simp] theorem State.setMem_stallNext (s : State) (m : Memory) : (s.setMem m).stallNext = s.stallNext := rfl
@[simp] theorem State.setMem_flushNext (s : State) (m : Memory) : (s.setMem m).flushNext = s.flushNext := rfl
@[simp] theorem State.setMem_hazCB (s : State) (m : Memory) : (s.setMem m).hazCB = s.hazCB := rfl
@[simp] theorem State.setMem_hazFlag (s : State) (m : Memory) : (s.setMem m).hazFlag = s.hazFlag := rfl
@[simp] theorem State.setMem_hazLoad (s : State) (m : Memory) : (s.setMem m).hazLoad = s.hazLoad := rfl
@[simp] theorem State.setMem_fwdA (s : State) (m : Memory) : (s.setMem m).fwdA = s.fwdA := rfl
@[simp] theorem State.setMem_fwdB (s : State) (m : Memory) : (s.setMem m).fwdB = s.fwdB := rfl
@[simp] theorem State.setMem_tickLog (s : State) (m : Memory) : (s.setMem m).tickLog = s.tickLog := rfl

@[simp] theorem State.setMem_readX (s : State) (m : Memory) (r : Reg) : (s.setMem m).readX r = s.readX r := rfl
@[simp] theorem State.setMem_readD (s : State) (m : Memory) (r : FReg) : (s.setMem m).readD r = s.readD r := rfl
@[simp] theorem State.setMem_readS (s : State) (m : Memory) (r : FReg) : (s.setMem m).readS r = s.readS r := rfl
@[simp] theorem State.setMem_currentLine (s : State) (m : Memory) : (s.setMem m).currentLine = s.currentLine := rfl
@[simp] theorem State.setMem_fetched (s : State) (m : Memory) : (s.setMem m).fetched = s.fetched := rfl
@[simp] theorem State.setMem_pc (s : State) (m : Memory) : (s.setMem m).pc = s.pc := rfl
@[simp] theorem State.setMem_snapshot (s : State) (m : Memory) : (s.setMem m).snapshot = s.snapshot := rfl

/-! ## `State.setMonitor` -/

@[simp] theorem State.setMonitor_x (s : State) (m : Option Word) : (s.setMonitor m).x = s.x := rfl
@[simp] theorem State.setMonitor_d (s : State) (m : Option Word) : (s.setMonitor m).d = s.d := rfl
@[simp] theorem State.setMonitor_flags (s : State) (m : Option Word) : (s.setMonitor m).flags = s.flags := rfl
@[simp] theorem State.setMonitor_idx (s : State) (m : Option Word) : (s.setMonitor m).idx = s.idx := rfl
@[simp] theorem State.setMonitor_mon (s : State) (m : Option Word) : (s.setMonitor m).mon = (m) := rfl
@[simp] theorem State.setMonitor_branchTaken (s : State) (m : Option Word) : (s.setMonitor m).branchTaken = s.branchTaken := rfl
@[simp] theorem State.setMonitor_stxrSuccess (s : State) (m : Option Word) : (s.setMonitor m).stxrSuccess = s.stxrSuccess := rfl
@[simp] theorem State.setMonitor_err (s : State) (m : Option Word) : (s.setMonitor m).err = s.err := rfl
@[simp] theorem State.setMonitor_mem (s : State) (m : Option Word) : (s.setMonitor m).mem = s.mem := rfl
@[simp] theorem State.setMonitor_program (s : State) (m : Option Word) : (s.setMonitor m).program = s.program := rfl
@[simp] theorem State.setMonitor_compileErrors (s : State) (m : Option Word) : (s.setMonitor m).compileErrors = s.compileErrors := rfl
@[simp] theorem State.setMonitor_params (s : State) (m : Option Word) : (s.setMonitor m).params = s.params := rfl
@[simp] theorem State.setMonitor_engine (s : State) (m : Option Word) : (s.setMonitor m).engine = s.engine := rfl
@[simp] theorem State.setMonitor_buf (s : State) (m : Option Word) : (s.setMonitor m).buf = s.buf := rfl
@[simp] theorem State.setMonitor_vis (s : State) (m : Option Word) : (s.setMonitor m).vis = s.vis := rfl
@[simp] theorem State.setMonitor_ifid (s : State) (m : Option Word) : (s.setMonitor m).ifid = s.ifid := rfl
@[simp] theorem State.setMonitor_idex (s : State) (m : Option Word) : (s.setMonitor m).idex = s.idex := rfl
@[simp] theorem State.setMonitor_exmem (s : State) (m : Option Word) : (s.setMonitor m).exmem = s.exmem := rfl
@[simp] theorem State.setMonitor_memwb (s : State) (m : Option Word) : (s.setMonitor m).memwb = s.memwb := rfl
@[simp] theorem State.setMonitor_stallNext (s : State) (m : Option Word) : (s.setMonitor m).stallNext = s.stallNext := rfl
@[simp] theorem State.setMonitor_flushNext (s : State) (m : Option Word) : (s.setMonitor m).flushNext = s.flushNext := rfl
@[simp] theorem State.setMonitor_hazCB (s : State) (m : Option Word) : (s.setMonitor m).hazCB = s.hazCB := rfl
@[simp] theorem State.setMonitor_hazFlag (s : State) (m : Option Word) : (s.setMonitor m).hazFlag = s.hazFlag := rfl
@[simp] theorem State.setMonitor_hazLoad (s : State) (m : Option Word) : (s.setMonitor m).hazLoad = s.hazLoad := rfl
@[simp] theorem State.setMonitor_fwdA (s : State) (m : Option Word) : (s.setMonitor m).fwdA = s.fwdA := rfl
@[simp] theorem State.setMonitor_fwdB (s : State) (m : Option Word) : (s.setMonitor m).fwdB = s.fwdB := rfl
@[simp] theorem State.setMonitor_tickLog (s : State) (m : Option Word) : (s.setMonitor m).tickLog = s.tickLog := rfl

@[simp] theorem State.setMonitor_readX (s : State) (m : Option Word) (r : Reg) : (s.setMonitor m).readX r = s.readX r := rfl
@[simp] theorem State.setMonitor_readD (s : State) (m : Option Word) (r : FReg) : (s.setMonitor m).readD r = s.readD r := rfl
@[simp] theorem State.setMonitor_readS (s : State) (m : Option Word) (r : FReg) : (s.setMonitor m).readS r = s.readS r := rfl
@[simp] theorem State.setMonitor_currentLine (s : State) (m : Option Word) : (s.setMonitor m).currentLine = s.currentLine := rfl
@[simp] theorem State.setMonitor_fetched (s : State) (m : Option Word) : (s.setMonitor m).fetched = s.fetched := rfl
@[simp] theorem State.setMonitor_pc (s : State) (m : Option Word) : (s.setMonitor m).pc = s.pc := rfl
@[simp] theorem State.setMonitor_snapshot (s : State) (m : Option Word) : (s.setMonitor m).snapshot = s.snapshot := rfl

/-! ## `State.setStxrSuccess` -/

@[simp] theorem State.setStxrSuccess_x (s : State) (b : Bool) : (s.setStxrSuccess b).x = s.x := rfl
@[simp] theorem State.setStxrSuccess_d (s : State) (b : Bool) : (s.setStxrSuccess b).d = s.d := rfl
@[simp] theorem State.setStxrSuccess_flags (s : State) (b : Bool) : (s.setStxrSuccess b).flags = s.flags := rfl
@[simp] theorem State.setStxrSuccess_idx (s : State) (b : Bool) : (s.setStxrSuccess b).idx = s.idx := rfl
@[simp] theorem State.setStxrSuccess_mon (s : State) (b : Bool) : (s.setStxrSuccess b).mon = s.mon := rfl
@[simp] theorem State.setStxrSuccess_branchTaken (s : State) (b : Bool) : (s.setStxrSuccess b).branchTaken = s.branchTaken := rfl
@[simp] theorem State.setStxrSuccess_stxrSuccess (s : State) (b : Bool) : (s.setStxrSuccess b).stxrSuccess = (b) := rfl
@[simp] theorem State.setStxrSuccess_err (s : State) (b : Bool) : (s.setStxrSuccess b).err = s.err := rfl
@[simp] theorem State.setStxrSuccess_mem (s : State) (b : Bool) : (s.setStxrSuccess b).mem = s.mem := rfl
@[simp] theorem State.setStxrSuccess_program (s : State) (b : Bool) : (s.setStxrSuccess b).program = s.program := rfl
@[simp] theorem State.setStxrSuccess_compileErrors (s : State) (b : Bool) : (s.setStxrSuccess b).compileErrors = s.compileErrors := rfl
@[simp] theorem State.setStxrSuccess_params (s : State) (b : Bool) : (s.setStxrSuccess b).params = s.params := rfl
@[simp] theorem State.setStxrSuccess_engine (s : State) (b : Bool) : (s.setStxrSuccess b).engine = s.engine := rfl
@[simp] theorem State.setStxrSuccess_buf (s : State) (b : Bool) : (s.setStxrSuccess b).buf = s.buf := rfl
@[simp] theorem State.setStxrSuccess_vis (s : State) (b : Bool) : (s.setStxrSuccess b).vis = s.vis := rfl
@[simp] theorem State.setStxrSuccess_ifid (s : State) (b : Bool) : (s.setStxrSuccess b).ifid = s.ifid := rfl
@[simp] theorem State.setStxrSuccess_idex (s : State) (b : Bool) : (s.setStxrSuccess b).idex = s.idex := rfl
@[simp] theorem State.setStxrSuccess_exmem (s : State) (b : Bool) : (s.setStxrSuccess b).exmem = s.exmem := rfl
@[simp] theorem State.setStxrSuccess_memwb (s : State) (b : Bool) : (s.setStxrSuccess b).memwb = s.memwb := rfl
@[simp] theorem State.setStxrSuccess_stallNext (s : State) (b : Bool) : (s.setStxrSuccess b).stallNext = s.stallNext := rfl
@[simp] theorem State.setStxrSuccess_flushNext (s : State) (b : Bool) : (s.setStxrSuccess b).flushNext = s.flushNext := rfl
@[simp] theorem State.setStxrSuccess_hazCB (s : State) (b : Bool) : (s.setStxrSuccess b).hazCB = s.hazCB := rfl
@[simp] theorem State.setStxrSuccess_hazFlag (s : State) (b : Bool) : (s.setStxrSuccess b).hazFlag = s.hazFlag := rfl
@[simp] theorem State.setStxrSuccess_hazLoad (s : State) (b : Bool) : (s.setStxrSuccess b).hazLoad = s.hazLoad := rfl
@[simp] theorem State.setStxrSuccess_fwdA (s : State) (b : Bool) : (s.setStxrSuccess b).fwdA = s.fwdA := rfl
@[simp] theorem State.setStxrSuccess_fwdB (s : State) (b : Bool) : (s.setStxrSuccess b).fwdB = s.fwdB := rfl
@[simp] theorem State.setStxrSuccess_tickLog (s : State) (b : Bool) : (s.setStxrSuccess b).tickLog = s.tickLog := rfl

@[simp] theorem State.setStxrSuccess_readX (s : State) (b : Bool) (r : Reg) : (s.setStxrSuccess b).readX r = s.readX r := rfl
@[simp] theorem State.setStxrSuccess_readD (s : State) (b : Bool) (r : FReg) : (s.setStxrSuccess b).readD r = s.readD r := rfl
@[simp] theorem State.setStxrSuccess_readS (s : State) (b : Bool) (r : FReg) : (s.setStxrSuccess b).readS r = s.readS r := rfl
@[simp] theorem State.setStxrSuccess_currentLine (s : State) (b : Bool) : (s.setStxrSuccess b).currentLine = s.currentLine := rfl
@[simp] theorem State.setStxrSuccess_fetched (s : State) (b : Bool) : (s.setStxrSuccess b).fetched = s.fetched := rfl
@[simp] theorem State.setStxrSuccess_pc (s : State) (b : Bool) : (s.setStxrSuccess b).pc = s.pc := rfl
@[simp] theorem State.setStxrSuccess_snapshot (s : State) (b : Bool) : (s.setStxrSuccess b).snapshot = s.snapshot := rfl

/-! ## `State.advance` -/

@[simp] theorem State.advance_x (s : State) : (s.advance).x = s.x := rfl
@[simp] theorem State.advance_d (s : State) : (s.advance).d = s.d := rfl
@[simp] theorem State.advance_flags (s : State) : (s.advance).flags = s.flags := rfl
@[simp] theorem State.advance_idx (s : State) : (s.advance).idx = (s.idx + 1) := rfl
@[simp] theorem State.advance_mon (s : State) : (s.advance).mon = s.mon := rfl
@[simp] theorem State.advance_branchTaken (s : State) : (s.advance).branchTaken = (false) := rfl
@[simp] theorem State.advance_stxrSuccess (s : State) : (s.advance).stxrSuccess = s.stxrSuccess := rfl
@[simp] theorem State.advance_err (s : State) : (s.advance).err = s.err := rfl
@[simp] theorem State.advance_mem (s : State) : (s.advance).mem = s.mem := rfl
@[simp] theorem State.advance_program (s : State) : (s.advance).program = s.program := rfl
@[simp] theorem State.advance_compileErrors (s : State) : (s.advance).compileErrors = s.compileErrors := rfl
@[simp] theorem State.advance_params (s : State) : (s.advance).params = s.params := rfl
@[simp] theorem State.advance_engine (s : State) : (s.advance).engine = s.engine := rfl
@[simp] theorem State.advance_buf (s : State) : (s.advance).buf = s.buf := rfl
@[simp] theorem State.advance_vis (s : State) : (s.advance).vis = s.vis := rfl
@[simp] theorem State.advance_ifid (s : State) : (s.advance).ifid = s.ifid := rfl
@[simp] theorem State.advance_idex (s : State) : (s.advance).idex = s.idex := rfl
@[simp] theorem State.advance_exmem (s : State) : (s.advance).exmem = s.exmem := rfl
@[simp] theorem State.advance_memwb (s : State) : (s.advance).memwb = s.memwb := rfl
@[simp] theorem State.advance_stallNext (s : State) : (s.advance).stallNext = s.stallNext := rfl
@[simp] theorem State.advance_flushNext (s : State) : (s.advance).flushNext = s.flushNext := rfl
@[simp] theorem State.advance_hazCB (s : State) : (s.advance).hazCB = s.hazCB := rfl
@[simp] theorem State.advance_hazFlag (s : State) : (s.advance).hazFlag = s.hazFlag := rfl
@[simp] theorem State.advance_hazLoad (s : State) : (s.advance).hazLoad = s.hazLoad := rfl
@[simp] theorem State.advance_fwdA (s : State) : (s.advance).fwdA = s.fwdA := rfl
@[simp] theorem State.advance_fwdB (s : State) : (s.advance).fwdB = s.fwdB := rfl
@[simp] theorem State.advance_tickLog (s : State) : (s.advance).tickLog = s.tickLog := rfl

@[simp] theorem State.advance_readX (s : State) (r : Reg) : (s.advance).readX r = s.readX r := rfl
@[simp] theorem State.advance_readD (s : State) (r : FReg) : (s.advance).readD r = s.readD r := rfl
@[simp] theorem State.advance_readS (s : State) (r : FReg) : (s.advance).readS r = s.readS r := rfl
@[simp] theorem State.advance_snapshot (s : State) : (s.advance).snapshot = s.snapshot := rfl

/-! ## `State.jump` -/

@[simp] theorem State.jump_x (s : State) (k : Nat) : (s.jump k).x = s.x := rfl
@[simp] theorem State.jump_d (s : State) (k : Nat) : (s.jump k).d = s.d := rfl
@[simp] theorem State.jump_flags (s : State) (k : Nat) : (s.jump k).flags = s.flags := rfl
@[simp] theorem State.jump_idx (s : State) (k : Nat) : (s.jump k).idx = (k) := rfl
@[simp] theorem State.jump_mon (s : State) (k : Nat) : (s.jump k).mon = s.mon := rfl
@[simp] theorem State.jump_branchTaken (s : State) (k : Nat) : (s.jump k).branchTaken = (true) := rfl
@[simp] theorem State.jump_stxrSuccess (s : State) (k : Nat) : (s.jump k).stxrSuccess = s.stxrSuccess := rfl
@[simp] theorem State.jump_err (s : State) (k : Nat) : (s.jump k).err = s.err := rfl
@[simp] theorem State.jump_mem (s : State) (k : Nat) : (s.jump k).mem = s.mem := rfl
@[simp] theorem State.jump_program (s : State) (k : Nat) : (s.jump k).program = s.program := rfl
@[simp] theorem State.jump_compileErrors (s : State) (k : Nat) : (s.jump k).compileErrors = s.compileErrors := rfl
@[simp] theorem State.jump_params (s : State) (k : Nat) : (s.jump k).params = s.params := rfl
@[simp] theorem State.jump_engine (s : State) (k : Nat) : (s.jump k).engine = s.engine := rfl
@[simp] theorem State.jump_buf (s : State) (k : Nat) : (s.jump k).buf = s.buf := rfl
@[simp] theorem State.jump_vis (s : State) (k : Nat) : (s.jump k).vis = s.vis := rfl
@[simp] theorem State.jump_ifid (s : State) (k : Nat) : (s.jump k).ifid = s.ifid := rfl
@[simp] theorem State.jump_idex (s : State) (k : Nat) : (s.jump k).idex = s.idex := rfl
@[simp] theorem State.jump_exmem (s : State) (k : Nat) : (s.jump k).exmem = s.exmem := rfl
@[simp] theorem State.jump_memwb (s : State) (k : Nat) : (s.jump k).memwb = s.memwb := rfl
@[simp] theorem State.jump_stallNext (s : State) (k : Nat) : (s.jump k).stallNext = s.stallNext := rfl
@[simp] theorem State.jump_flushNext (s : State) (k : Nat) : (s.jump k).flushNext = s.flushNext := rfl
@[simp] theorem State.jump_hazCB (s : State) (k : Nat) : (s.jump k).hazCB = s.hazCB := rfl
@[simp] theorem State.jump_hazFlag (s : State) (k : Nat) : (s.jump k).hazFlag = s.hazFlag := rfl
@[simp] theorem State.jump_hazLoad (s : State) (k : Nat) : (s.jump k).hazLoad = s.hazLoad := rfl
@[simp] theorem State.jump_fwdA (s : State) (k : Nat) : (s.jump k).fwdA = s.fwdA := rfl
@[simp] theorem State.jump_fwdB (s : State) (k : Nat) : (s.jump k).fwdB = s.fwdB := rfl
@[simp] theorem State.jump_tickLog (s : State) (k : Nat) : (s.jump k).tickLog = s.tickLog := rfl

@[simp] theorem State.jump_readX (s : State) (k : Nat) (r : Reg) : (s.jump k).readX r = s.readX r := rfl
@[simp] theorem State.jump_readD (s : State) (k : Nat) (r : FReg) : (s.jump k).readD r = s.readD r := rfl
@[simp] theorem State.jump_readS (s : State) (k : Nat) (r : FReg) : (s.jump k).readS r = s.readS r := rfl
@[simp] theorem State.jump_snapshot (s : State) (k : Nat) : (s.jump k).snapshot = s.snapshot := rfl

/-! ## `State.takeFault` -/

@[simp] theorem State.takeFault_x (s : State) (f : Fault) : (s.takeFault f).x = s.x := rfl
@[simp] theorem State.takeFault_d (s : State) (f : Fault) : (s.takeFault f).d = s.d := rfl
@[simp] theorem State.takeFault_flags (s : State) (f : Fault) : (s.takeFault f).flags = s.flags := rfl
@[simp] theorem State.takeFault_idx (s : State) (f : Fault) : (s.takeFault f).idx = s.idx := rfl
@[simp] theorem State.takeFault_mon (s : State) (f : Fault) : (s.takeFault f).mon = s.mon := rfl
@[simp] theorem State.takeFault_branchTaken (s : State) (f : Fault) : (s.takeFault f).branchTaken = s.branchTaken := rfl
@[simp] theorem State.takeFault_stxrSuccess (s : State) (f : Fault) : (s.takeFault f).stxrSuccess = s.stxrSuccess := rfl
@[simp] theorem State.takeFault_err (s : State) (f : Fault) : (s.takeFault f).err = (some { fault := f, line := s.currentLine }) := rfl
@[simp] theorem State.takeFault_mem (s : State) (f : Fault) : (s.takeFault f).mem = s.mem := rfl
@[simp] theorem State.takeFault_program (s : State) (f : Fault) : (s.takeFault f).program = s.program := rfl
@[simp] theorem State.takeFault_compileErrors (s : State) (f : Fault) : (s.takeFault f).compileErrors = s.compileErrors := rfl
@[simp] theorem State.takeFault_params (s : State) (f : Fault) : (s.takeFault f).params = s.params := rfl
@[simp] theorem State.takeFault_engine (s : State) (f : Fault) : (s.takeFault f).engine = s.engine := rfl
@[simp] theorem State.takeFault_buf (s : State) (f : Fault) : (s.takeFault f).buf = s.buf := rfl
@[simp] theorem State.takeFault_vis (s : State) (f : Fault) : (s.takeFault f).vis = s.vis := rfl
@[simp] theorem State.takeFault_ifid (s : State) (f : Fault) : (s.takeFault f).ifid = s.ifid := rfl
@[simp] theorem State.takeFault_idex (s : State) (f : Fault) : (s.takeFault f).idex = s.idex := rfl
@[simp] theorem State.takeFault_exmem (s : State) (f : Fault) : (s.takeFault f).exmem = s.exmem := rfl
@[simp] theorem State.takeFault_memwb (s : State) (f : Fault) : (s.takeFault f).memwb = s.memwb := rfl
@[simp] theorem State.takeFault_stallNext (s : State) (f : Fault) : (s.takeFault f).stallNext = s.stallNext := rfl
@[simp] theorem State.takeFault_flushNext (s : State) (f : Fault) : (s.takeFault f).flushNext = s.flushNext := rfl
@[simp] theorem State.takeFault_hazCB (s : State) (f : Fault) : (s.takeFault f).hazCB = s.hazCB := rfl
@[simp] theorem State.takeFault_hazFlag (s : State) (f : Fault) : (s.takeFault f).hazFlag = s.hazFlag := rfl
@[simp] theorem State.takeFault_hazLoad (s : State) (f : Fault) : (s.takeFault f).hazLoad = s.hazLoad := rfl
@[simp] theorem State.takeFault_fwdA (s : State) (f : Fault) : (s.takeFault f).fwdA = s.fwdA := rfl
@[simp] theorem State.takeFault_fwdB (s : State) (f : Fault) : (s.takeFault f).fwdB = s.fwdB := rfl
@[simp] theorem State.takeFault_tickLog (s : State) (f : Fault) : (s.takeFault f).tickLog = s.tickLog := rfl

@[simp] theorem State.takeFault_readX (s : State) (f : Fault) (r : Reg) : (s.takeFault f).readX r = s.readX r := rfl
@[simp] theorem State.takeFault_readD (s : State) (f : Fault) (r : FReg) : (s.takeFault f).readD r = s.readD r := rfl
@[simp] theorem State.takeFault_readS (s : State) (f : Fault) (r : FReg) : (s.takeFault f).readS r = s.readS r := rfl
@[simp] theorem State.takeFault_currentLine (s : State) (f : Fault) : (s.takeFault f).currentLine = s.currentLine := rfl
@[simp] theorem State.takeFault_fetched (s : State) (f : Fault) : (s.takeFault f).fetched = s.fetched := rfl
@[simp] theorem State.takeFault_pc (s : State) (f : Fault) : (s.takeFault f).pc = s.pc := rfl
@[simp] theorem State.takeFault_snapshot (s : State) (f : Fault) : (s.takeFault f).snapshot = s.snapshot := rfl

/-! ## `State.shiftTo` -/

@[simp] theorem State.shiftTo_x (s : State) (b : Buffer) : (s.shiftTo b).x = s.x := rfl
@[simp] theorem State.shiftTo_d (s : State) (b : Buffer) : (s.shiftTo b).d = s.d := rfl
@[simp] theorem State.shiftTo_flags (s : State) (b : Buffer) : (s.shiftTo b).flags = s.flags := rfl
@[simp] theorem State.shiftTo_idx (s : State) (b : Buffer) : (s.shiftTo b).idx = s.idx := rfl
@[simp] theorem State.shiftTo_mon (s : State) (b : Buffer) : (s.shiftTo b).mon = s.mon := rfl
@[simp] theorem State.shiftTo_branchTaken (s : State) (b : Buffer) : (s.shiftTo b).branchTaken = s.branchTaken := rfl
@[simp] theorem State.shiftTo_stxrSuccess (s : State) (b : Buffer) : (s.shiftTo b).stxrSuccess = s.stxrSuccess := rfl
@[simp] theorem State.shiftTo_err (s : State) (b : Buffer) : (s.shiftTo b).err = s.err := rfl
@[simp] theorem State.shiftTo_mem (s : State) (b : Buffer) : (s.shiftTo b).mem = s.mem := rfl
@[simp] theorem State.shiftTo_program (s : State) (b : Buffer) : (s.shiftTo b).program = s.program := rfl
@[simp] theorem State.shiftTo_compileErrors (s : State) (b : Buffer) : (s.shiftTo b).compileErrors = s.compileErrors := rfl
@[simp] theorem State.shiftTo_params (s : State) (b : Buffer) : (s.shiftTo b).params = s.params := rfl
@[simp] theorem State.shiftTo_engine (s : State) (b : Buffer) : (s.shiftTo b).engine = s.engine := rfl
@[simp] theorem State.shiftTo_buf (s : State) (b : Buffer) : (s.shiftTo b).buf = (b) := rfl
@[simp] theorem State.shiftTo_vis (s : State) (b : Buffer) : (s.shiftTo b).vis = (retire s.vis s.buf.slotWB) := rfl
@[simp] theorem State.shiftTo_ifid (s : State) (b : Buffer) : (s.shiftTo b).ifid = (stageFields b.slotID) := rfl
@[simp] theorem State.shiftTo_idex (s : State) (b : Buffer) : (s.shiftTo b).idex = (stageFields b.slotEX) := rfl
@[simp] theorem State.shiftTo_exmem (s : State) (b : Buffer) : (s.shiftTo b).exmem = (stageFields b.slotMEM) := rfl
@[simp] theorem State.shiftTo_memwb (s : State) (b : Buffer) : (s.shiftTo b).memwb = (stageFields b.slotWB) := rfl
@[simp] theorem State.shiftTo_stallNext (s : State) (b : Buffer) : (s.shiftTo b).stallNext = (compareBranchHazard (stageFields b.slotID) (stageFields b.slotEX) (stageFields b.slotMEM) || flagHazard (stageFields b.slotID) (stageFields b.slotEX) (stageFields b.slotMEM) || loadUseHazard (stageFields b.slotID) (stageFields b.slotEX)) := rfl
@[simp] theorem State.shiftTo_flushNext (s : State) (b : Buffer) : (s.shiftTo b).flushNext = (controlHazard b.slotID) := rfl
@[simp] theorem State.shiftTo_hazCB (s : State) (b : Buffer) : (s.shiftTo b).hazCB = (compareBranchHazard (stageFields b.slotID) (stageFields b.slotEX) (stageFields b.slotMEM)) := rfl
@[simp] theorem State.shiftTo_hazFlag (s : State) (b : Buffer) : (s.shiftTo b).hazFlag = (flagHazard (stageFields b.slotID) (stageFields b.slotEX) (stageFields b.slotMEM)) := rfl
@[simp] theorem State.shiftTo_hazLoad (s : State) (b : Buffer) : (s.shiftTo b).hazLoad = (loadUseHazard (stageFields b.slotID) (stageFields b.slotEX)) := rfl
@[simp] theorem State.shiftTo_fwdA (s : State) (b : Buffer) : (s.shiftTo b).fwdA = (forwardA (stageFields b.slotEX) (stageFields b.slotMEM) (stageFields b.slotWB)) := rfl
@[simp] theorem State.shiftTo_fwdB (s : State) (b : Buffer) : (s.shiftTo b).fwdB = (forwardB (stageFields b.slotEX) (stageFields b.slotMEM) (stageFields b.slotWB)) := rfl
@[simp] theorem State.shiftTo_tickLog (s : State) (b : Buffer) : (s.shiftTo b).tickLog = (s.tickLog ++ [b.logLine]) := rfl

@[simp] theorem State.shiftTo_readX (s : State) (b : Buffer) (r : Reg) : (s.shiftTo b).readX r = s.readX r := rfl
@[simp] theorem State.shiftTo_readD (s : State) (b : Buffer) (r : FReg) : (s.shiftTo b).readD r = s.readD r := rfl
@[simp] theorem State.shiftTo_readS (s : State) (b : Buffer) (r : FReg) : (s.shiftTo b).readS r = s.readS r := rfl
@[simp] theorem State.shiftTo_currentLine (s : State) (b : Buffer) : (s.shiftTo b).currentLine = s.currentLine := rfl
@[simp] theorem State.shiftTo_fetched (s : State) (b : Buffer) : (s.shiftTo b).fetched = s.fetched := rfl
@[simp] theorem State.shiftTo_pc (s : State) (b : Buffer) : (s.shiftTo b).pc = s.pc := rfl
@[simp] theorem State.shiftTo_snapshot (s : State) (b : Buffer) : (s.shiftTo b).snapshot = s.snapshot := rfl

/-! ## Registers -/

/-- Register 31 reads as 0 (10_state R11). -/
@[simp] theorem State.readX_xzr (s : State) : s.readX XZR = 0#64 := rfl

/-- Register 31 reads as 0, the index written as a numeral. -/
@[simp] theorem State.readX_thirtyOne (s : State) : s.readX 31 = 0#64 := rfl

/-- A write to register 31 has no effect (10_state R12). -/
@[simp] theorem State.writeX_xzr (s : State) (v : Word) : s.writeX XZR v = s := rfl

/-- What a register write can do to a read: the written register reads the value, register 31 reads 0, every other
register keeps its value (10_state R11 R12). -/
theorem State.readX_writeX (s : State) (i r : Reg) (v : Word) :
    (s.writeX i v).readX r = if r = XZR then 0#64 else if r = i then v else s.readX r := by
  unfold State.readX
  by_cases hr : r = XZR
  · simp [hr]
  · by_cases hi : i = XZR
    · have : r ≠ i := fun h => hr (h.trans hi)
      simp [hr, hi]
    · by_cases hri : r = i
      · subst hri
        simp [hr]
      · have hv : (i : Nat) ≠ (r : Nat) := fun h => hri (Fin.ext h.symm)
        simp [hr, hi, hri, hv]

/-- The written register reads the value unless it is register 31. -/
theorem State.readX_writeX_self (s : State) (i : Reg) (v : Word) :
    (s.writeX i v).readX i = if i = XZR then 0#64 else v := by
  rw [State.readX_writeX]
  by_cases h : i = XZR <;> simp [h]

/-- Every other register keeps its value. -/
theorem State.readX_writeX_of_ne (s : State) (i r : Reg) (v : Word) (h : r ≠ i) :
    (s.writeX i v).readX r = s.readX r := by
  rw [State.readX_writeX]
  by_cases hr : r = XZR
  · simp [hr]
  · simp [hr, h]

end Sys2Proof.Machine
end

