-- ==== Sys2Proof/Laws/Ops.lean ====
section
/-!
SUPPORT. For each shared operation, what it can do, once: the range check, the two memory accesses, the shapes of the
meanings, and the two engines. Later proofs cite these and do not unfold the operations.
-/

namespace Sys2Proof.Machine

/-! ## The range check (20_memory R42 R46) -/

/-- An address is in the window exactly when its number lies between the two bounds. -/
theorem inWindow_iff (p : Params) (a : Word) :
    inWindow p a = true ↔ p.dynDataBase.toNat ≤ a.toNat ∧ a.toNat < p.stackBase.toNat := by
  simp [inWindow, BitVec.le_def, BitVec.lt_def]

/-- The range check passes exactly when the first and the last byte are in the window. -/
theorem checkRange_eq_none (p : Params) (a : Word) (n : Nat) :
    checkRange p a n = none ↔ inWindow p a = true ∧ inWindow p (a + BitVec.ofNat 64 (n - 1)) = true := by
  cases h : inWindow p a <;> cases h' : inWindow p (a + BitVec.ofNat 64 (n - 1)) <;> simp [checkRange, h, h']

/-- A run of bytes that lies between the two bounds passes the check. -/
theorem checkRange_of_bounds {p : Params} {a : Word} {n : Nat} (hn : 0 < n) (lo : p.dynDataBase.toNat ≤ a.toNat)
    (hi : a.toNat + n ≤ p.stackBase.toNat) : checkRange p a n = none := by
  have hs := p.stackBase.isLt
  rw [checkRange_eq_none, inWindow_iff, inWindow_iff, BitVec.toNat_add, BitVec.toNat_ofNat]
  omega

/-- A first byte outside the window is the one reported. -/
theorem checkRange_of_first {p : Params} {a : Word} (n : Nat) (h : inWindow p a = false) :
    checkRange p a n = some (.segmentFault a) := by
  simp [checkRange, h]

/-- A last byte outside the window is reported when the first byte is inside. -/
theorem checkRange_of_last {p : Params} {a : Word} {n : Nat} (h : inWindow p a = true)
    (h' : inWindow p (a + BitVec.ofNat 64 (n - 1)) = false) :
    checkRange p a n = some (.segmentFault (a + BitVec.ofNat 64 (n - 1))) := by
  simp [checkRange, h, h']

/-- All that the range check raises. -/
theorem checkRange_fault {p : Params} {a : Word} {n : Nat} {f : Fault} (h : checkRange p a n = some f) :
    f = .segmentFault a ∨ f = .segmentFault (a + BitVec.ofNat 64 (n - 1)) := by
  simp only [checkRange] at h
  split at h
  · exact .inl (Option.some.inj h).symm
  · split at h
    · exact .inr (Option.some.inj h).symm
    · cases h

/-! ## The accesses (20_memory R47 R48) -/

/-- A read whose range check passes gives the bytes of memory, the first most significant. -/
theorem State.memRead_of_range {s : State} {a : Word} {n : Nat} (h : checkRange s.params a n = none) :
    s.memRead a n = .ok (fromBigEndian (s.mem.loadBytes a n)) := by
  simp [State.memRead, h]

/-- A read whose range check raises gives that fault. -/
theorem State.memRead_of_fault {s : State} {a : Word} {n : Nat} {f : Fault} (h : checkRange s.params a n = some f) :
    s.memRead a n = .error f := by
  simp [State.memRead, h]

/-- A write whose range check passes stores the low bytes, the most significant first, and changes nothing else. -/
theorem State.memWrite_of_range {s : State} {a : Word} {n : Nat} (v : Word) (h : checkRange s.params a n = none) :
    s.memWrite a n v = .ok (s.setMem (s.mem.storeBytes a (toBigEndian v n))) := by
  simp [State.memWrite, h]

/-- A write whose range check raises gives that fault: no byte is written. -/
theorem State.memWrite_of_fault {s : State} {a : Word} {n : Nat} {f : Fault} (v : Word)
    (h : checkRange s.params a n = some f) : s.memWrite a n v = .error f := by
  simp [State.memWrite, h]

/-- A write that succeeds changes the memory only, and passed its range check. -/
theorem State.memWrite_ok {s t : State} {a : Word} {n : Nat} {v : Word} (h : s.memWrite a n v = .ok t) :
    checkRange s.params a n = none ∧ t = s.setMem (s.mem.storeBytes a (toBigEndian v n)) := by
  unfold State.memWrite at h
  cases hc : checkRange s.params a n with
  | none => simp only [hc] at h; cases h; exact ⟨rfl, rfl⟩
  | some f => simp only [hc] at h; cases h

/-- A write that succeeds keeps the memory canonical. -/
theorem State.memWrite_wf {s t : State} {a : Word} {n : Nat} {v : Word} (h : s.memWrite a n v = .ok t)
    (hw : Memory.wf s.mem = true) : Memory.wf t.mem = true := by
  rw [(State.memWrite_ok h).2]
  exact Memory.wf_storeBytes _ _ hw

/-- The memory right after reset is canonical. -/
theorem State.reset_mem_wf : Memory.wf State.reset.mem = true := rfl

/-! ## The shapes of the meanings -/

/-- The stack-pointer check passes when the base is another register or holds a multiple of 16. -/
theorem baseFault_eq_none {s : State} {n : Reg} (h : n = SP → (s.readX SP).toNat % 16 = 0) : baseFault s n = none := by
  unfold baseFault
  rw [if_neg]
  rintro ⟨hn, hm⟩
  exact hm (h hn)

/-- The stack-pointer check raises the value of register 28. -/
theorem baseFault_sp {s : State} (h : (s.readX SP).toNat % 16 ≠ 0) :
    baseFault s SP = some (.spAlignment (s.readX SP)) := by
  simp [baseFault, h]

/-- All that a load can do: the fault of its base, the fault of its range, or the value of its bytes written back. -/
theorem loadRegister_cases (t n : Reg) (off : Int) (size : Nat) (ext : Word → Word) (s : State) :
    (∃ f, baseFault s n = some f ∧ loadRegister t n off size ext s = .next (s.takeFault f))
    ∨ (∃ f, baseFault s n = none ∧ checkRange s.params (effectiveAddress s n off) size = some f
        ∧ loadRegister t n off size ext s = .next (s.takeFault f))
    ∨ (baseFault s n = none ∧ checkRange s.params (effectiveAddress s n off) size = none
        ∧ loadRegister t n off size ext s = .next
            (s.writeX t (ext (fromBigEndian (s.mem.loadBytes (effectiveAddress s n off) size)))).advance) := by
  unfold loadRegister
  cases hb : baseFault s n with
  | some f => exact .inl ⟨f, rfl, rfl⟩
  | none =>
    cases hc : checkRange s.params (effectiveAddress s n off) size with
    | some f => exact .inr (.inl ⟨f, rfl, rfl, by simp only [State.memRead_of_fault hc]⟩)
    | none => exact .inr (.inr ⟨rfl, rfl, by simp only [State.memRead_of_range hc]⟩)

/-- All that a store can do: the fault of its base, the fault of its range, or its bytes in memory and the monitor
updated. -/
theorem storeRegister_cases (t n : Reg) (off : Int) (size : Nat) (s : State) :
    (∃ f, baseFault s n = some f ∧ storeRegister t n off size s = .next (s.takeFault f))
    ∨ (∃ f, baseFault s n = none ∧ checkRange s.params (effectiveAddress s n off) size = some f
        ∧ storeRegister t n off size s = .next (s.takeFault f))
    ∨ (baseFault s n = none ∧ checkRange s.params (effectiveAddress s n off) size = none
        ∧ storeRegister t n off size s = .next
            ((s.setMem (s.mem.storeBytes (effectiveAddress s n off) (toBigEndian (s.readX t) size))).setMonitor
              (monitorAfterStore s.mon (effectiveAddress s n off) size)).advance) := by
  unfold storeRegister
  cases hb : baseFault s n with
  | some f => exact .inl ⟨f, rfl, rfl⟩
  | none =>
    cases hc : checkRange s.params (effectiveAddress s n off) size with
    | some f => exact .inr (.inl ⟨f, rfl, rfl, by simp only [State.memWrite_of_fault _ hc]⟩)
    | none => exact .inr (.inr ⟨rfl, rfl, by simp only [State.memWrite_of_range _ hc]⟩)

/-- All that LDXR can do. -/
theorem execLdxr_cases (t n : Reg) (s : State) :
    (∃ f, baseFault s n = some f ∧ execLdxr t n s = .next (s.takeFault f))
    ∨ (∃ f, baseFault s n = none ∧ checkRange s.params (s.readX n) 8 = some f ∧ execLdxr t n s = .next (s.takeFault f))
    ∨ (baseFault s n = none ∧ checkRange s.params (s.readX n) 8 = none
        ∧ execLdxr t n s = .next
            ((s.setMonitor (some (s.readX n))).writeX t (fromBigEndian (s.mem.loadBytes (s.readX n) 8))).advance) := by
  unfold execLdxr
  cases hb : baseFault s n with
  | some f => exact .inl ⟨f, rfl, rfl⟩
  | none =>
    cases hc : checkRange s.params (s.readX n) 8 with
    | some f => exact .inr (.inl ⟨f, rfl, rfl, by simp only [State.memRead_of_fault hc]⟩)
    | none => exact .inr (.inr ⟨rfl, rfl, by simp only [State.memRead_of_range hc]⟩)

/-- All that STXR can do. -/
theorem execStxr_cases (t st n : Reg) (s : State) :
    (∃ f, baseFault s n = some f ∧ execStxr t st n s = .next (s.takeFault f))
    ∨ (∃ f, baseFault s n = none ∧ s.mon = some (s.readX n) ∧ checkRange s.params (s.readX n) 8 = some f
        ∧ execStxr t st n s = .next (s.takeFault f))
    ∨ (baseFault s n = none ∧ s.mon = some (s.readX n) ∧ checkRange s.params (s.readX n) 8 = none
        ∧ execStxr t st n s = .next
            ((((s.setMem (s.mem.storeBytes (s.readX n) (toBigEndian (s.readX t) 8))).setMonitor none).setStxrSuccess
              true).writeX st 0#64).advance)
    ∨ (baseFault s n = none ∧ s.mon ≠ some (s.readX n)
        ∧ execStxr t st n s = .next ((s.setStxrSuccess false).writeX st 1#64).advance) := by
  unfold execStxr
  cases hb : baseFault s n with
  | some f => exact .inl ⟨f, rfl, rfl⟩
  | none =>
    by_cases hm : s.mon = some (s.readX n)
    · cases hc : checkRange s.params (s.readX n) 8 with
      | some f => exact .inr (.inl ⟨f, rfl, hm, rfl, by simp only [if_pos hm, State.memWrite_of_fault _ hc]⟩)
      | none => exact .inr (.inr (.inl ⟨rfl, hm, rfl, by simp only [if_pos hm, State.memWrite_of_range _ hc]⟩))
    · exact .inr (.inr (.inr ⟨rfl, hm, by simp only [if_neg hm]⟩))

/-- All that BR can do. -/
theorem execBr_cases (n : Reg) (s : State) :
    (∃ f, branchTargetFault s.params (s.readX n) = some f ∧ execBr n s = .next (s.takeFault f))
    ∨ (branchTargetFault s.params (s.readX n) = none
        ∧ execBr n s = .next (s.jump (indexOfAddress s.params (s.readX n)))) := by
  unfold execBr
  cases hb : branchTargetFault s.params (s.readX n) with
  | some f => exact .inl ⟨f, rfl, rfl⟩
  | none => exact .inr ⟨rfl, rfl⟩

/-- All that a branch to a label can do. -/
theorem branchIf_cases (taken : Bool) (target : Nat) (s : State) :
    (taken = true ∧ branchIf taken target s = .next (s.jump target))
    ∨ (taken = false ∧ branchIf taken target s = .next s.advance) := by
  cases taken
  · exact .inr ⟨rfl, rfl⟩
  · exact .inl ⟨rfl, rfl⟩

/-- The checks of BR pass for a word-aligned address of the text segment (46_branch R234). -/
theorem branchTargetFault_eq_none (p : Params) (a : Word) :
    branchTargetFault p a = none
      ↔ a.toNat % 4 = 0 ∧ p.textBase.toNat ≤ a.toNat ∧ a.toNat < p.textLimit.toNat := by
  unfold branchTargetFault
  simp only [BitVec.lt_def, BitVec.le_def]
  by_cases h4 : a.toNat % 4 = 0
  · by_cases hr : a.toNat < p.textBase.toNat ∨ p.textLimit.toNat ≤ a.toNat
    · rw [if_neg (by omega), if_pos hr]; constructor
      · intro h; cases h
      · omega
    · rw [if_neg (by omega), if_neg hr]; constructor
      · intro _; omega
      · intro _; rfl
  · rw [if_pos h4]; constructor
    · intro h; cases h
    · omega

/-- The index of an address in the text segment is its distance from the base, by fours. -/
theorem indexOfAddress_eq {p : Params} {a : Word} (h : p.textBase.toNat ≤ a.toNat) :
    indexOfAddress p a = (a.toNat - p.textBase.toNat) / 4 := by
  rw [indexOfAddress, BitVec.toNat_sub_of_le (by rwa [BitVec.le_def])]

/-! ## The engines -/

/-- All that the single-cycle engine can do: nothing after a fault, nothing past the end, else the fetched rule. -/
theorem executeInstruction_cases (s : State) :
    (s.err.isSome = true ∧ executeInstruction s = .next s)
    ∨ (s.err = none ∧ s.fetched = none ∧ executeInstruction s = .next s)
    ∨ (∃ r, s.err = none ∧ s.fetched = some r ∧ executeInstruction s = exec r.instr s) := by
  unfold executeInstruction
  cases he : s.err with
  | some e => exact .inl ⟨rfl, rfl⟩
  | none =>
    cases hf : s.fetched with
    | none => exact .inr (.inl ⟨rfl, rfl, rfl⟩)
    | some r => exact .inr (.inr ⟨r, rfl, rfl, rfl⟩)

/-- All that a tick can do: no-op after a fault; no-op when drained; a stall; a drain shift; a placeholder; a fetch
(70_reset R323). -/
theorem clock_cases (s : State) :
    (s.err.isSome = true ∧ clock s = .next s)
    ∨ (s.err = none ∧ s.fetched = none ∧ s.buf = Buffer.empty ∧ clock s = .next s)
    ∨ (s.err = none ∧ s.stallNext = true ∧ (s.fetched = none → s.buf ≠ Buffer.empty)
        ∧ clock s = .next (s.shiftTo s.buf.stalled))
    ∨ (s.err = none ∧ s.stallNext = false ∧ s.fetched = none ∧ s.buf ≠ Buffer.empty
        ∧ clock s = .next (s.shiftTo (s.buf.shiftIn none)))
    ∨ (∃ r p, s.err = none ∧ s.stallNext = false ∧ s.fetched = some r ∧ s.buf.slotIF = some p ∧ p.taken = true
        ∧ clock s = .next (s.shiftTo (s.buf.shiftIn (placeholder s p))))
    ∨ (∃ r, s.err = none ∧ s.stallNext = false ∧ s.fetched = some r
        ∧ (∀ p, s.buf.slotIF = some p → p.taken = false) ∧ clock s = fetchTick s r) := by
  unfold clock
  cases he : s.err with
  | some e => exact .inl ⟨rfl, rfl⟩
  | none =>
    right
    cases hf : s.fetched with
    | none =>
      by_cases hb : s.buf = Buffer.empty
      · exact .inl ⟨rfl, rfl, hb, by simp [hb]⟩
      · right
        cases hs : s.stallNext with
        | true => exact .inl ⟨rfl, rfl, fun _ => hb, by simp [hb]⟩
        | false => exact .inr (.inl ⟨rfl, rfl, rfl, hb, by simp [hb]⟩)
    | some r =>
      right
      cases hs : s.stallNext with
      | true => exact .inl ⟨rfl, rfl, fun h => (by cases h), by simp⟩
      | false =>
        right; right
        cases hi : s.buf.slotIF with
        | none => exact .inr ⟨r, rfl, rfl, rfl, fun p h => (by cases h), by simp [previousTaken, hi]⟩
        | some p =>
          cases ht : p.taken with
          | true => exact .inl ⟨r, p, rfl, rfl, rfl, rfl, ht, by simp [previousTaken, hi, ht]⟩
          | false =>
            refine .inr ⟨r, rfl, rfl, rfl, fun q h => ?_, by simp [previousTaken, hi, ht]⟩
            cases h; exact ht

end Sys2Proof.Machine
end

