-- ==== Sys2Proof/Laws/Effects.lean ====
section
/-!
SUPPORT. The frame of each shape of meaning, once, in the terms of the statements.
-/

namespace Sys2Proof.Machine

/-- A write-back without flags is a `RegisterResult`. -/
theorem RegisterResult.writeBack (s : State) (d : Reg) (v : Word) :
    RegisterResult s (s.writeX d v).advance d v := by
  refine ⟨fun r => ?_, rfl, fun _ => rfl, ⟨rfl, rfl⟩, ⟨rfl, rfl, rfl⟩, by constructor <;> rfl⟩
  simp [State.readX_writeX]

/-- A write-back with flags is a `FlaggedResult`. -/
theorem FlaggedResult.writeBack (s : State) (d : Reg) (v : Word) (f : Flags) :
    FlaggedResult s ((s.writeX d v).setFlags f).advance d v f := by
  refine ⟨fun r => ?_, rfl, fun _ => rfl, ⟨rfl, rfl⟩, ⟨rfl, rfl, rfl⟩, by constructor <;> rfl⟩
  simp [State.readX_writeX]

/-- Writing the flags and falling through is a `FlagsResult`. -/
theorem FlagsResult.setFlags (s : State) (f : Flags) : FlagsResult s (s.setFlags f).advance f :=
  ⟨fun _ => rfl, rfl, fun _ => rfl, ⟨rfl, rfl⟩, ⟨rfl, rfl, rfl⟩, by constructor <;> rfl⟩

/-- A branch to a label is a `BranchResult`. -/
theorem BranchResult.branchIf (s : State) (taken : Bool) (target : Nat) :
    ∃ t, branchIf taken target s = .next t ∧ BranchResult s t taken target := by
  cases taken
  · exact ⟨_, rfl, fun _ => rfl, rfl, fun _ => rfl, ⟨rfl, rfl⟩, ⟨rfl, rfl, rfl⟩, by constructor <;> rfl⟩
  · exact ⟨_, rfl, fun _ => rfl, rfl, fun _ => rfl, ⟨rfl, rfl⟩, ⟨rfl, rfl, rfl⟩, by constructor <;> rfl⟩

/-- A jump is a `BranchResult`. -/
theorem BranchResult.jump (s : State) (target : Nat) : BranchResult s (s.jump target) true target :=
  ⟨fun _ => rfl, rfl, fun _ => rfl, ⟨rfl, rfl⟩, ⟨rfl, rfl, rfl⟩, by constructor <;> rfl⟩

/-- Bytes in the data window pass the range check. -/
theorem State.inData.checkRange {s : State} {a : Word} {size : Nat} (h : s.inData a size) (hs : 0 < size) :
    Sys2Proof.Machine.checkRange s.params a size = none := checkRange_of_bounds hs h.1 h.2

/-- No address wraps inside the data window. -/
theorem State.inData.add_toNat {s : State} {a : Word} {size i : Nat} (h : s.inData a size) (hi : i < size) :
    (a + BitVec.ofNat 64 i).toNat = a.toNat + i := by
  have := h.2
  have := s.params.stackBase.isLt
  rw [BitVec.toNat_add, BitVec.toNat_ofNat]
  omega

/-- What a load of bytes in the data window reads is their big-endian value. -/
theorem isBigEndianValue_loadBytes {s : State} {a : Word} {size : Nat} (h : s.inData a size) (h8 : size ≤ 8) :
    IsBigEndianValue s.mem a.toNat size (fromBigEndian (s.mem.loadBytes a size)) := by
  constructor
  · intro i hi
    apply BitVec.eq_of_getLsbD_eq
    intro j hj
    rw [BitVec.getLsbD_extractLsb',
      fromBigEndian_getLsbD _ _ (by omega) (by rw [Memory.length_loadBytes]; omega), Memory.getElem_loadBytes]
    have hk : (s.mem.loadBytes a size).length - 1 - (8 * (size - 1 - i) + j) / 8 = i := by
      rw [Memory.length_loadBytes]; omega
    have hj' : (8 * (size - 1 - i) + j) % 8 = j := by omega
    rw [hk, hj', h.add_toNat hi]
    simp [hj]
  · by_cases hs : size = 8
    · subst hs; exact (fromBigEndian _).isLt
    · apply Nat.lt_pow_two_of_testBit
      intro k hk
      exact fromBigEndian_getLsbD_high _ _ (by rwa [Memory.length_loadBytes])

/-- A load whose base and bytes are good is a `RegisterResult`. -/
theorem loadRegister_result {s : State} {t n : Reg} {off : Int} {size : Nat} (ext : Word → Word) (hb : s.baseReady n)
    (h : s.inData (effectiveAddress s n off) size) (hs : 0 < size) :
    loadRegister t n off size ext s
        = .next (s.writeX t (ext (fromBigEndian (s.mem.loadBytes (effectiveAddress s n off) size)))).advance := by
  rcases loadRegister_cases t n off size ext s with ⟨f, hf, _⟩ | ⟨f, _, hf, _⟩ | ⟨_, _, hr⟩
  · rw [baseFault_eq_none hb] at hf; cases hf
  · rw [h.checkRange hs] at hf; cases hf
  · exact hr

/-- Bytes stored in the data window: exactly they change. -/
theorem StoresBytes.storeBytes {s t : State} {a : Word} {size : Nat} (v : Word) (hw : Memory.wf s.mem = true)
    (h : s.inData a size) (h8 : size ≤ 8) (ht : t.mem = s.mem.storeBytes a (toBigEndian v size)) :
    StoresBytes s t a size v := by
  constructor
  · intro i hi
    rw [ht, ← h.add_toNat hi, Memory.readByte_storeBytes _ _ _ (by simpa using hi) hw (by simp; omega),
      getElem_toBigEndian]
  · intro k hk
    rw [ht, Memory.readByte_storeBytes_of_ne _ _ _ hw]
    intro i hi
    rw [length_toBigEndian] at hi
    rw [h.add_toNat hi]
    omega

/-- An ordinary store whose base and bytes are good is a `StoreResult`. -/
theorem storeRegister_result {s : State} {t n : Reg} {off : Int} {size : Nat} (hw : Memory.wf s.mem = true)
    (hb : s.baseReady n) (h : s.inData (effectiveAddress s n off) size) (hs : 0 < size) (h8 : size ≤ 8) :
    ∃ u, storeRegister t n off size s = .next u ∧ StoreResult s u (effectiveAddress s n off) size (s.readX t) := by
  rcases storeRegister_cases t n off size s with ⟨f, hf, _⟩ | ⟨f, _, hf, _⟩ | ⟨_, _, hr⟩
  · rw [baseFault_eq_none hb] at hf; cases hf
  · rw [h.checkRange hs] at hf; cases hf
  · refine ⟨_, hr, StoresBytes.storeBytes _ hw h h8 rfl, ?_, ?_, rfl, fun _ => rfl, rfl, ⟨rfl, rfl, rfl⟩,
      by constructor <;> rfl⟩
    · intro a ha
      simp [monitorAfterStore, ha, overlapsTag]
    · intro ha
      simp [monitorAfterStore, ha]

/-- The sum of a number and an index into the text is the program counter of that index (10_state R19). -/
theorem pcOf_toNat {p : Params} {k : Nat} (h : p.textBase.toNat + 4 * k < 2 ^ 64) :
    (pcOf p k).toNat = p.textBase.toNat + 4 * k := by
  rw [pcOf, BitVec.toNat_add, BitVec.toNat_ofNat]
  omega

end Sys2Proof.Machine
end

