-- ==== Sys2Proof/Laws/Exec.lean ====
section
/-!
SUPPORT. All that an instruction can do, once: eleven effects, with what each needs of the instruction. A statement about
every instruction splits on these, not on the 51 meanings.
-/

namespace Sys2Proof.Machine

/-- The effects of the 51 instructions on a state. -/
inductive Effect (i : Instr) (s : State) : State → Prop where
  /-- A fault is taken. -/
  | fault (f : Fault) (h : canFault i) : Effect i s (s.takeFault f)
  /-- A register is written. -/
  | register (d : Reg) (v : Word) (h : (registerFields i).dest = some d) (hf : ¬setsFlagsOf i) :
      Effect i s (s.writeX d v).advance
  /-- A register and the flags are written. -/
  | flagged (d : Reg) (v : Word) (f : Flags) (h : (registerFields i).dest = some d) (hf : setsFlagsOf i) :
      Effect i s ((s.writeX d v).setFlags f).advance
  /-- The flags are written. -/
  | flags (f : Flags) (hf : setsFlagsOf i) : Effect i s (s.setFlags f).advance
  /-- A branch is taken. -/
  | jump (target : Nat) (hf : ¬setsFlagsOf i)
      (h : (controlOf i.mnemonic).uncondBranch = .on ∨ (controlOf i.mnemonic).flagBranch = .on
        ∨ (controlOf i.mnemonic).zeroBranch = .on) : Effect i s (s.jump target)
  /-- A conditional branch is not taken. -/
  | fallThrough (hf : ¬setsFlagsOf i) : Effect i s s.advance
  /-- BL links and branches. -/
  | link (target : Nat) (h : i = .bl target) : Effect i s ((s.writeX LR (pcOf s.params (s.idx + 1))).jump target)
  /-- An ordinary store stores its bytes and updates the monitor. -/
  | store (n : Reg) (off : Int) (size : Nat) (v : Word) (h : ordinaryStore i n off size) :
      Effect i s ((s.setMem (s.mem.storeBytes (effectiveAddress s n off) (toBigEndian v size))).setMonitor
        (monitorAfterStore s.mon (effectiveAddress s n off) size)).advance
  /-- LDXR loads and sets the tag. -/
  | loadExclusive (t n : Reg) (v : Word) (h : i = .ldxr t n) :
      Effect i s ((s.setMonitor (some (s.readX n))).writeX t v).advance
  /-- STXR stores, clears the tag and reports 0. -/
  | storeExclusive (t st n : Reg) (h : i = .stxr t st n) (hm : s.mon = some (s.readX n)) :
      Effect i s ((((s.setMem (s.mem.storeBytes (s.readX n) (toBigEndian (s.readX t) 8))).setMonitor none).setStxrSuccess
        true).writeX st 0#64).advance
  /-- STXR stores nothing and reports 1. -/
  | storeFailed (t st n : Reg) (h : i = .stxr t st n) (hm : s.mon ≠ some (s.readX n)) :
      Effect i s ((s.setStxrSuccess false).writeX st 1#64).advance

/-- A load's effect. -/
theorem loadRegister_effect {i : Instr} {s : State} {t n : Reg} {off : Int} {size : Nat} {ext : Word → Word}
    (hc : canFault i) (hd : (registerFields i).dest = some t) (hf : ¬setsFlagsOf i) :
    ∃ u, loadRegister t n off size ext s = .next u ∧ Effect i s u := by
  rcases loadRegister_cases t n off size ext s with ⟨f, _, h⟩ | ⟨f, _, _, h⟩ | ⟨_, _, h⟩
  · exact ⟨_, h, .fault f hc⟩
  · exact ⟨_, h, .fault f hc⟩
  · exact ⟨_, h, .register t _ hd hf⟩

/-- An ordinary store's effect. -/
theorem storeRegister_effect {i : Instr} {s : State} {t n : Reg} {off : Int} {size : Nat} (hc : canFault i)
    (ho : ordinaryStore i n off size) : ∃ u, storeRegister t n off size s = .next u ∧ Effect i s u := by
  rcases storeRegister_cases t n off size s with ⟨f, _, h⟩ | ⟨f, _, _, h⟩ | ⟨_, _, h⟩
  · exact ⟨_, h, .fault f hc⟩
  · exact ⟨_, h, .fault f hc⟩
  · exact ⟨_, h, .store n off size _ ho⟩

/-- A label branch's effect. -/
theorem branchIf_effect {i : Instr} {s : State} {taken : Bool} {target : Nat} (hf : ¬setsFlagsOf i)
    (hb : (controlOf i.mnemonic).uncondBranch = .on ∨ (controlOf i.mnemonic).flagBranch = .on
      ∨ (controlOf i.mnemonic).zeroBranch = .on) : ∃ u, branchIf taken target s = .next u ∧ Effect i s u := by
  rcases branchIf_cases taken target s with ⟨_, h⟩ | ⟨_, h⟩
  · exact ⟨_, h, .jump target hf hb⟩
  · exact ⟨_, h, .fallThrough hf⟩

/-- Every instruction has one of the eleven effects. -/
theorem exec_effect (i : Instr) (s : State) : ∃ u, exec i s = .next u ∧ Effect i s u := by
  cases i
  case ldxr t n =>
    rcases execLdxr_cases t n s with ⟨f, _, h⟩ | ⟨f, _, _, h⟩ | ⟨_, _, h⟩
    · exact ⟨_, h, .fault f (by simp [canFault, Instr.mnemonic])⟩
    · exact ⟨_, h, .fault f (by simp [canFault, Instr.mnemonic])⟩
    · exact ⟨_, h, .loadExclusive t n _ rfl⟩
  case stxr t st n =>
    rcases execStxr_cases t st n s with ⟨f, _, h⟩ | ⟨f, _, _, _, h⟩ | ⟨_, hm, _, h⟩ | ⟨_, hm, h⟩
    · exact ⟨_, h, .fault f (by simp [canFault, Instr.mnemonic])⟩
    · exact ⟨_, h, .fault f (by simp [canFault, Instr.mnemonic])⟩
    · exact ⟨_, h, .storeExclusive t st n rfl hm⟩
    · exact ⟨_, h, .storeFailed t st n rfl hm⟩
  case br n =>
    rcases execBr_cases n s with ⟨f, _, h⟩ | ⟨_, h⟩
    · exact ⟨_, h, .fault f (by simp [canFault, Instr.mnemonic])⟩
    · exact ⟨_, h, .jump _ (by simp [setsFlagsOf, Instr.mnemonic]) (.inl rfl)⟩
  case b target => exact ⟨_, rfl, .jump target (by simp [setsFlagsOf, Instr.mnemonic]) (.inl rfl)⟩
  case bl target => exact ⟨_, rfl, .link target rfl⟩
  case fcmps n m => exact ⟨_, rfl, .flags _ (by simp [setsFlagsOf, Instr.mnemonic])⟩
  case fcmpd n m => exact ⟨_, rfl, .flags _ (by simp [setsFlagsOf, Instr.mnemonic])⟩
  case stur t n off => exact storeRegister_effect (by simp [canFault, Instr.mnemonic]) (.inl ⟨t, rfl, rfl⟩)
  case sturw t n off => exact storeRegister_effect (by simp [canFault, Instr.mnemonic]) (.inr (.inl ⟨t, rfl, rfl⟩))
  case sturh t n off =>
    exact storeRegister_effect (by simp [canFault, Instr.mnemonic]) (.inr (.inr (.inl ⟨t, rfl, rfl⟩)))
  case sturb t n off =>
    exact storeRegister_effect (by simp [canFault, Instr.mnemonic]) (.inr (.inr (.inr ⟨t, rfl, rfl⟩)))
  all_goals solve
    | (refine ⟨_, rfl, .register _ _ rfl ?_⟩; simp [setsFlagsOf, Instr.mnemonic])
    | (refine ⟨_, rfl, .flagged _ _ _ rfl ?_⟩; simp [setsFlagsOf, Instr.mnemonic])
    | (refine loadRegister_effect ?_ rfl ?_ <;> simp [canFault, setsFlagsOf, Instr.mnemonic])
    | (refine branchIf_effect ?_ ?_ <;> simp [setsFlagsOf, controlOf, Instr.mnemonic])

/-- What a next state of an instruction is. -/
theorem exec_inversion {i : Instr} {s t : State} (h : exec i s = .next t) : Effect i s t := by
  obtain ⟨u, hu, he⟩ := exec_effect i s
  rw [h] at hu
  cases hu
  exact he

/-- No instruction changes what is outside the CPU and the memory. -/
theorem Effect.untouched {i : Instr} {s t : State} (h : Effect i s t) : Untouched s t := by
  cases h <;> constructor <;> rfl

end Sys2Proof.Machine
end

