-- ==== Sys2Proof/Laws/Flags.lean ====
section
/-!
SUPPORT. What each flag formula means in integers: sign, zero, carry out, signed overflow, for a sum and for the sum with
the negated operand (40_alu_flags R132 to R137).
-/

namespace Sys2Proof.Machine

/-- N is set in the upper half of the 64-bit range. -/
theorem flagN_eq (r : Word) : flagN r = decide (2 ^ 63 ≤ r.toNat) := by
  simp [flagN, BitVec.msb_eq_decide]

/-- Z is set when the number is 0. -/
theorem flagZ_eq (r : Word) : flagZ r = decide (r.toNat = 0) :=
  decide_eq_decide.mpr (by simp [BitVec.toNat_eq])

/-- The MSB formula of C is the carry out of the unbounded sum. -/
theorem flagC_add (a b : Word) : flagC a b (a + b) = decide (2 ^ 64 ≤ a.toNat + b.toNat) := by
  have ha := a.isLt
  have hb := b.isLt
  have hr : (a + b).msb = decide (2 ^ 63 ≤ (a.toNat + b.toNat) % 2 ^ 64) := by
    rw [BitVec.msb_eq_decide, BitVec.toNat_add]
  unfold flagC
  rw [BitVec.msb_or, BitVec.msb_and, BitVec.msb_and, BitVec.msb_or, BitVec.msb_not, hr, BitVec.msb_eq_decide,
    BitVec.msb_eq_decide]
  by_cases h1 : 2 ^ 63 ≤ a.toNat <;> by_cases h2 : 2 ^ 63 ≤ b.toNat <;>
    by_cases h3 : 2 ^ 63 ≤ (a.toNat + b.toNat) % 2 ^ 64 <;>
    simp only [Nat.add_one_sub_one, h1, h2, h3, decide_true, decide_false] <;> simp <;> omega

/-- The XOR formula of V is the signed overflow of the sum. -/
theorem flagV_add (a b : Word) :
    flagV a b (a + b) = decide (a.toInt + b.toInt < -2 ^ 63 ∨ 2 ^ 63 ≤ a.toInt + b.toInt) := by
  have ha := a.isLt
  have hb := b.isLt
  have hr : (a + b).msb = decide (2 ^ 63 ≤ (a.toNat + b.toNat) % 2 ^ 64) := by
    rw [BitVec.msb_eq_decide, BitVec.toNat_add]
  unfold flagV
  rw [BitVec.msb_and, BitVec.msb_xor, BitVec.msb_xor, hr, BitVec.msb_eq_decide, BitVec.msb_eq_decide,
    BitVec.toInt_eq_toNat_cond, BitVec.toInt_eq_toNat_cond]
  by_cases h1 : 2 ^ 63 ≤ a.toNat <;> by_cases h2 : 2 ^ 63 ≤ b.toNat <;>
    by_cases h3 : 2 ^ 63 ≤ (a.toNat + b.toNat) % 2 ^ 64 <;>
    simp only [Nat.add_one_sub_one, h1, h2, h3, decide_true, decide_false] <;> simp <;> omega

/-- C of the SUB class: set exactly when the second operand is neither 0 nor above the first (R141). -/
theorem flagC_sub (a b : Word) : flagC a (-b) (a + -b) = decide (b.toNat ≠ 0 ∧ b.toNat ≤ a.toNat) := by
  rw [flagC_add]
  have ha := a.isLt
  have hb := b.isLt
  apply decide_eq_decide.mpr
  rw [BitVec.toNat_neg]
  omega

/-- Z of the SUB class: set exactly when the operands are equal. -/
theorem flagZ_sub (a b : Word) : flagZ (a + -b) = decide (a.toNat = b.toNat) := by
  rw [flagZ_eq]
  have ha := a.isLt
  have hb := b.isLt
  apply decide_eq_decide.mpr
  rw [BitVec.toNat_add, BitVec.toNat_neg]
  omega

/-- V of the SUB class: signed overflow of the difference, inverted when the second operand is `2^63` (R141). -/
theorem flagV_sub (a b : Word) :
    flagV a (-b) (a + -b) = xor (decide (b.toNat = 2 ^ 63))
      (decide (a.toInt - b.toInt < -2 ^ 63 ∨ 2 ^ 63 ≤ a.toInt - b.toInt)) := by
  rw [flagV_add]
  have ha := a.isLt
  have hb := b.isLt
  have hn : (-b).toNat = (2 ^ 64 - b.toNat) % 2 ^ 64 := BitVec.toNat_neg b
  have ea := BitVec.toInt_eq_toNat_cond a
  have eb := BitVec.toInt_eq_toNat_cond b
  have en := BitVec.toInt_eq_toNat_cond (-b)
  generalize a.toInt = x at *
  generalize b.toInt = y at *
  generalize (-b).toInt = z at *
  rw [hn] at en
  by_cases h : b.toNat = 2 ^ 63
  · simp only [h, decide_true, Bool.true_xor]
    rw [← decide_not]
    apply decide_eq_decide.mpr
    rw [h] at eb en
    split at ea <;> omega
  · simp only [h, decide_false, Bool.false_xor]
    apply decide_eq_decide.mpr
    split at ea <;> split at eb <;> split at en <;> omega

/-- Adding the negation is the difference of the numbers, wrapped. -/
theorem add_neg_eq_ofInt (a b : Word) : a + -b = BitVec.ofInt 64 ((a.toNat : Int) - b.toNat) := by
  apply BitVec.eq_of_toNat_eq
  have := a.isLt
  have := b.isLt
  simp only [BitVec.toNat_ofInt, BitVec.toNat_add, BitVec.toNat_neg]
  omega

/-- A 12-bit immediate is the same number, unsigned and signed. -/
theorem immOperand_toNat {imm : Nat} (h : imm ≤ 4095) : (immOperand imm).toNat = imm := by
  simp only [immOperand, BitVec.toNat_ofNat]
  omega

/-- A 12-bit immediate is never negative. -/
theorem immOperand_toInt {imm : Nat} (h : imm ≤ 4095) : (immOperand imm).toInt = imm := by
  rw [BitVec.toInt_eq_toNat_cond, immOperand_toNat h, if_pos]
  omega

end Sys2Proof.Machine
end

