-- ==== Sys2Proof/Laws/Hazards.lean ====
section
/-!
SUPPORT. What the shared functions of the hazard detectors can answer: the fields of a slot, a dependence, a producer,
and the fields of a state after a shift.
-/

namespace Sys2Proof.Machine

@[simp] theorem stageFields_none : stageFields none = none := rfl

/-- A register is a dependence exactly when it is the field and not register 31 (70_reset R330). -/
theorem dependence_eq_some {field : Option Reg} {r : Reg} : dependence field = some r ↔ field = some r ∧ r ≠ XZR := by
  cases field with
  | none => simp [dependence]
  | some i =>
    by_cases h : i = XZR
    · simp only [dependence, h, if_true, reduceCtorEq, Option.some.injEq, false_iff, not_and, not_not]
      exact fun e => e.symm
    · simp only [dependence, h, if_false, Option.some.injEq]
      exact ⟨fun e => ⟨e, e ▸ h⟩, fun e => e.1⟩

/-- The register a slot produces (70_reset R331). -/
theorem prodDest_eq_some {slot : Option InFlight} {r : Reg} :
    prodDest (stageFields slot) = some r ↔ ProducesIn slot r := by
  cases slot with
  | none => simp [prodDest, ProducesIn]
  | some p =>
    simp only [stageFields, prodDest, ProducesIn]
    by_cases h : p.record.ctrl.regWrite = .on
    · simp [h, dependence_eq_some, and_comm]
    · simp [h]

/-- A slot sets the flags exactly when its control word says so (70_reset R333). -/
theorem setsFlags_eq_true {slot : Option InFlight} :
    setsFlags (stageFields slot) = true ↔ ∃ p, slot = some p ∧ p.record.ctrl.flagWrite = .on := by
  cases slot <;> simp [setsFlags, stageFields]

/-- A flush follows exactly when ID holds a taken branch (70_reset R340). -/
theorem controlHazard_eq_true {slot : Option InFlight} :
    controlHazard slot = true ↔ ∃ p, slot = some p ∧ p.taken = true := by
  cases slot <;> simp [controlHazard]

end Sys2Proof.Machine
end

