-- ==== Sys2Proof/Laws/Loader.lean ====
section
/-!
SUPPORT. What the word loader's shared operations can answer: the words decoded one by one, and the records of a list of
instructions.
-/

namespace Sys2Proof.Machine

/-- Words that decode, decode each at its own index, to as many instructions (30_encoding R93). -/
theorem decodeWordsFrom_ok : ∀ (ws : List Code) (i : Nat) (is : List Instr), decodeWordsFrom i ws = .ok is →
    is.length = ws.length ∧ ∀ k w, ws[k]? = some w → ∃ x, is[k]? = some x ∧ decode (i + k) w = .ok x := by
  intro ws
  induction ws with
  | nil => intro i is h; simp [decodeWordsFrom] at h; subst h; simp
  | cons w ws ih =>
    intro i is h
    unfold decodeWordsFrom at h
    split at h
    · cases h
    · rename_i x hx
      split at h
      · cases h
      · rename_i rest hr
        cases h
        obtain ⟨h1, h2⟩ := ih _ _ hr
        refine ⟨by simp [h1], ?_⟩
        intro k w' hk
        cases k with
        | zero => simp at hk; subst hk; exact ⟨x, rfl, hx⟩
        | succ k =>
          obtain ⟨y, hy, hd⟩ := h2 k w' (by simpa using hk)
          exact ⟨y, by simpa using hy, by rw [show i + (k + 1) = i + 1 + k by omega]; exact hd⟩

/-- Words that do not decode hold one that is no instruction at its own index. -/
theorem decodeWordsFrom_error : ∀ (ws : List Code) (i j : Nat) (why : Reject), decodeWordsFrom i ws = .error (j, why) →
    ∃ k w why', ws[k]? = some w ∧ decode (i + k) w = .error why' := by
  intro ws
  induction ws with
  | nil => intro i j why h; simp [decodeWordsFrom] at h
  | cons w ws ih =>
    intro i j why h
    unfold decodeWordsFrom at h
    split at h
    · rename_i y hy; exact ⟨0, w, y, rfl, hy⟩
    · split at h
      · rename_i e he
        obtain ⟨a, b⟩ := e
        obtain ⟨k, w', y, h1, h2⟩ := ih _ _ _ he
        exact ⟨k + 1, w', y, by simpa using h1, by rw [show i + (k + 1) = i + 1 + k by omega]; exact h2⟩
      · cases h

/-- The record at an index is that of the instruction there, on the next line. -/
theorem bindFrom_getElem? : ∀ (is : List Instr) (n k : Nat), (bindFrom n is)[k]? = (is[k]?).map (fun i => Record.bind i (n + k)) := by
  intro is
  induction is with
  | nil => intro n k; simp [bindFrom]
  | cons i is ih =>
    intro n k
    cases k with
    | zero => simp [bindFrom]
    | succ k => simp [bindFrom, ih]; congr 1; funext x; congr 1; omega

/-- There are as many records as instructions. -/
@[simp] theorem bindFrom_length : ∀ (is : List Instr) (n : Nat), (bindFrom n is).length = is.length := by
  intro is
  induction is with
  | nil => intro n; rfl
  | cons i is ih => intro n; simp [bindFrom, ih]

end Sys2Proof.Machine
end

