-- ==== Sys2Proof/Laws/PerInstr.lean ====
section
/-!
SUPPORT. One lemma per instruction: the word the encoder writes matches the instruction's own row of the opcode table
(30_encoding R92). `decode_of_admits` then leaves only the operand fields to a round trip.
-/

namespace Sys2Proof.Laws

/-- The encoder's word of an instruction matches the row of its mnemonic, at every index. -/
def EncodesItsOpcode.Statement (i : Instr) : Prop :=
  ∀ own : Nat, ∃ r ∈ opcodeTable, r.mnemonic = i.mnemonic ∧ r.admits (encodeWord own i) = true

theorem EncodesItsOpcode.add (d : Reg) (n : Reg) (m : Reg) : EncodesItsOpcode.Statement (.add d n m) := fun _ =>
  ⟨⟨.add, 0x8B000000#32, 0xFFE0FC00#32⟩, by decide, rfl, decide_eq_true ((wordR_and_alu ..).trans (by decide))⟩

theorem EncodesItsOpcode.adds (d : Reg) (n : Reg) (m : Reg) : EncodesItsOpcode.Statement (.adds d n m) := fun _ =>
  ⟨⟨.adds, 0xAB000000#32, 0xFFE0FC00#32⟩, by decide, rfl, decide_eq_true ((wordR_and_alu ..).trans (by decide))⟩

theorem EncodesItsOpcode.addi (d : Reg) (n : Reg) (imm : Nat) : EncodesItsOpcode.Statement (.addi d n imm) := fun _ =>
  ⟨⟨.addi, 0x91000000#32, 0xFFC00000#32⟩, by decide, rfl, decide_eq_true ((wordI_and ..).trans (by decide))⟩

theorem EncodesItsOpcode.addis (d : Reg) (n : Reg) (imm : Nat) : EncodesItsOpcode.Statement (.addis d n imm) := fun _ =>
  ⟨⟨.addis, 0xB1000000#32, 0xFFC00000#32⟩, by decide, rfl, decide_eq_true ((wordI_and ..).trans (by decide))⟩

theorem EncodesItsOpcode.sub (d : Reg) (n : Reg) (m : Reg) : EncodesItsOpcode.Statement (.sub d n m) := fun _ =>
  ⟨⟨.sub, 0xCB000000#32, 0xFFE0FC00#32⟩, by decide, rfl, decide_eq_true ((wordR_and_alu ..).trans (by decide))⟩

theorem EncodesItsOpcode.subs (d : Reg) (n : Reg) (m : Reg) : EncodesItsOpcode.Statement (.subs d n m) := fun _ =>
  ⟨⟨.subs, 0xEB000000#32, 0xFFE0FC00#32⟩, by decide, rfl, decide_eq_true ((wordR_and_alu ..).trans (by decide))⟩

theorem EncodesItsOpcode.subi (d : Reg) (n : Reg) (imm : Nat) : EncodesItsOpcode.Statement (.subi d n imm) := fun _ =>
  ⟨⟨.subi, 0xD1000000#32, 0xFFC00000#32⟩, by decide, rfl, decide_eq_true ((wordI_and ..).trans (by decide))⟩

theorem EncodesItsOpcode.subis (d : Reg) (n : Reg) (imm : Nat) : EncodesItsOpcode.Statement (.subis d n imm) := fun _ =>
  ⟨⟨.subis, 0xF1000000#32, 0xFFC00000#32⟩, by decide, rfl, decide_eq_true ((wordI_and ..).trans (by decide))⟩

theorem EncodesItsOpcode.and (d : Reg) (n : Reg) (m : Reg) : EncodesItsOpcode.Statement (.and d n m) := fun _ =>
  ⟨⟨.and, 0x8A000000#32, 0xFFE0FC00#32⟩, by decide, rfl, decide_eq_true ((wordR_and_alu ..).trans (by decide))⟩

theorem EncodesItsOpcode.ands (d : Reg) (n : Reg) (m : Reg) : EncodesItsOpcode.Statement (.ands d n m) := fun _ =>
  ⟨⟨.ands, 0xEA000000#32, 0xFFE0FC00#32⟩, by decide, rfl, decide_eq_true ((wordR_and_alu ..).trans (by decide))⟩

theorem EncodesItsOpcode.andi (d : Reg) (n : Reg) (imm : Nat) : EncodesItsOpcode.Statement (.andi d n imm) := fun _ =>
  ⟨⟨.andi, 0x92000000#32, 0xFFC00000#32⟩, by decide, rfl, decide_eq_true ((wordI_and ..).trans (by decide))⟩

theorem EncodesItsOpcode.andis (d : Reg) (n : Reg) (imm : Nat) : EncodesItsOpcode.Statement (.andis d n imm) := fun _ =>
  ⟨⟨.andis, 0xF2000000#32, 0xFFC00000#32⟩, by decide, rfl, decide_eq_true ((wordI_and ..).trans (by decide))⟩

theorem EncodesItsOpcode.orr (d : Reg) (n : Reg) (m : Reg) : EncodesItsOpcode.Statement (.orr d n m) := fun _ =>
  ⟨⟨.orr, 0xAA000000#32, 0xFFE0FC00#32⟩, by decide, rfl, decide_eq_true ((wordR_and_alu ..).trans (by decide))⟩

theorem EncodesItsOpcode.orri (d : Reg) (n : Reg) (imm : Nat) : EncodesItsOpcode.Statement (.orri d n imm) := fun _ =>
  ⟨⟨.orri, 0xB2000000#32, 0xFFC00000#32⟩, by decide, rfl, decide_eq_true ((wordI_and ..).trans (by decide))⟩

theorem EncodesItsOpcode.eor (d : Reg) (n : Reg) (m : Reg) : EncodesItsOpcode.Statement (.eor d n m) := fun _ =>
  ⟨⟨.eor, 0xCA000000#32, 0xFFE0FC00#32⟩, by decide, rfl, decide_eq_true ((wordR_and_alu ..).trans (by decide))⟩

theorem EncodesItsOpcode.eori (d : Reg) (n : Reg) (imm : Nat) : EncodesItsOpcode.Statement (.eori d n imm) := fun _ =>
  ⟨⟨.eori, 0xD2000000#32, 0xFFC00000#32⟩, by decide, rfl, decide_eq_true ((wordI_and ..).trans (by decide))⟩

theorem EncodesItsOpcode.lsl (d : Reg) (n : Reg) (sh : Nat) : EncodesItsOpcode.Statement (.lsl d n sh) := fun _ =>
  ⟨⟨.lsl, 0xD3600000#32, 0xFFFF0000#32⟩, by decide, rfl, decide_eq_true ((wordR_and_shift ..).trans (by decide))⟩

theorem EncodesItsOpcode.lsr (d : Reg) (n : Reg) (sh : Nat) : EncodesItsOpcode.Statement (.lsr d n sh) := fun _ =>
  ⟨⟨.lsr, 0xD3400000#32, 0xFFFF0000#32⟩, by decide, rfl, decide_eq_true ((wordR_and_shift ..).trans (by decide))⟩

theorem EncodesItsOpcode.movz (d : Reg) (imm : Nat) (q : Nat) : EncodesItsOpcode.Statement (.movz d imm q) := fun _ =>
  ⟨⟨.movz, 0xD2800000#32, 0xFF800000#32⟩, by decide, rfl, decide_eq_true ((wordIM_and ..).trans (by decide))⟩

theorem EncodesItsOpcode.movk (d : Reg) (imm : Nat) (q : Nat) : EncodesItsOpcode.Statement (.movk d imm q) := fun _ =>
  ⟨⟨.movk, 0xF2800000#32, 0xFF800000#32⟩, by decide, rfl, decide_eq_true ((wordIM_and ..).trans (by decide))⟩

theorem EncodesItsOpcode.ldur (t : Reg) (n : Reg) (off : Int) : EncodesItsOpcode.Statement (.ldur t n off) := fun _ =>
  ⟨⟨.ldur, 0xF8400000#32, 0xFFE00C00#32⟩, by decide, rfl, decide_eq_true ((wordD_and ..).trans (by decide))⟩

theorem EncodesItsOpcode.ldursw (t : Reg) (n : Reg) (off : Int) : EncodesItsOpcode.Statement (.ldursw t n off) := fun _ =>
  ⟨⟨.ldursw, 0xB8800000#32, 0xFFE00C00#32⟩, by decide, rfl, decide_eq_true ((wordD_and ..).trans (by decide))⟩

theorem EncodesItsOpcode.ldurh (t : Reg) (n : Reg) (off : Int) : EncodesItsOpcode.Statement (.ldurh t n off) := fun _ =>
  ⟨⟨.ldurh, 0x78400000#32, 0xFFE00C00#32⟩, by decide, rfl, decide_eq_true ((wordD_and ..).trans (by decide))⟩

theorem EncodesItsOpcode.ldurb (t : Reg) (n : Reg) (off : Int) : EncodesItsOpcode.Statement (.ldurb t n off) := fun _ =>
  ⟨⟨.ldurb, 0x38400000#32, 0xFFE00C00#32⟩, by decide, rfl, decide_eq_true ((wordD_and ..).trans (by decide))⟩

theorem EncodesItsOpcode.stur (t : Reg) (n : Reg) (off : Int) : EncodesItsOpcode.Statement (.stur t n off) := fun _ =>
  ⟨⟨.stur, 0xF8000000#32, 0xFFE00C00#32⟩, by decide, rfl, decide_eq_true ((wordD_and ..).trans (by decide))⟩

theorem EncodesItsOpcode.sturw (t : Reg) (n : Reg) (off : Int) : EncodesItsOpcode.Statement (.sturw t n off) := fun _ =>
  ⟨⟨.sturw, 0xB8000000#32, 0xFFE00C00#32⟩, by decide, rfl, decide_eq_true ((wordD_and ..).trans (by decide))⟩

theorem EncodesItsOpcode.sturh (t : Reg) (n : Reg) (off : Int) : EncodesItsOpcode.Statement (.sturh t n off) := fun _ =>
  ⟨⟨.sturh, 0x78000000#32, 0xFFE00C00#32⟩, by decide, rfl, decide_eq_true ((wordD_and ..).trans (by decide))⟩

theorem EncodesItsOpcode.sturb (t : Reg) (n : Reg) (off : Int) : EncodesItsOpcode.Statement (.sturb t n off) := fun _ =>
  ⟨⟨.sturb, 0x38000000#32, 0xFFE00C00#32⟩, by decide, rfl, decide_eq_true ((wordD_and ..).trans (by decide))⟩

theorem EncodesItsOpcode.ldxr (t : Reg) (n : Reg) : EncodesItsOpcode.Statement (.ldxr t n) := fun _ =>
  ⟨⟨.ldxr, 0xC8400000#32, 0xFFFFFC00#32⟩, by decide, rfl, decide_eq_true ((wordX_and_ldxr ..).trans (by decide))⟩

theorem EncodesItsOpcode.stxr (t : Reg) (st : Reg) (n : Reg) : EncodesItsOpcode.Statement (.stxr t st n) := fun _ =>
  ⟨⟨.stxr, 0xC8000000#32, 0xFFE0FC00#32⟩, by decide, rfl, decide_eq_true ((wordX_and_stxr ..).trans (by decide))⟩

theorem EncodesItsOpcode.b (target : Nat) : EncodesItsOpcode.Statement (.b target) := fun _ =>
  ⟨⟨.b, 0x14000000#32, 0xFC000000#32⟩, by decide, rfl, decide_eq_true ((wordB_and ..).trans (by decide))⟩

theorem EncodesItsOpcode.bl (target : Nat) : EncodesItsOpcode.Statement (.bl target) := fun _ =>
  ⟨⟨.bl, 0x94000000#32, 0xFC000000#32⟩, by decide, rfl, decide_eq_true ((wordB_and ..).trans (by decide))⟩

theorem EncodesItsOpcode.br (n : Reg) : EncodesItsOpcode.Statement (.br n) := fun _ =>
  ⟨⟨.br, 0xD6000000#32, 0xFFFFFC1F#32⟩, by decide, rfl, decide_eq_true ((wordR_and_br ..).trans (by decide))⟩

theorem EncodesItsOpcode.cbz (t : Reg) (target : Nat) : EncodesItsOpcode.Statement (.cbz t target) := fun _ =>
  ⟨⟨.cbz, 0xB4000000#32, 0xFF000000#32⟩, by decide, rfl, decide_eq_true ((wordCB_and ..).trans (by decide))⟩

theorem EncodesItsOpcode.cbnz (t : Reg) (target : Nat) : EncodesItsOpcode.Statement (.cbnz t target) := fun _ =>
  ⟨⟨.cbnz, 0xB5000000#32, 0xFF000000#32⟩, by decide, rfl, decide_eq_true ((wordCB_and ..).trans (by decide))⟩

theorem EncodesItsOpcode.bEq (target : Nat) : EncodesItsOpcode.Statement (.bEq target) := fun _ =>
  ⟨⟨.bEq, 0x54000000#32, 0xFF00001F#32⟩, by decide, rfl, decide_eq_true ((wordCB_and_cond ..).trans (by decide))⟩

theorem EncodesItsOpcode.bNe (target : Nat) : EncodesItsOpcode.Statement (.bNe target) := fun _ =>
  ⟨⟨.bNe, 0x54000001#32, 0xFF00001F#32⟩, by decide, rfl, decide_eq_true ((wordCB_and_cond ..).trans (by decide))⟩

theorem EncodesItsOpcode.bHs (target : Nat) : EncodesItsOpcode.Statement (.bHs target) := fun _ =>
  ⟨⟨.bHs, 0x54000002#32, 0xFF00001F#32⟩, by decide, rfl, decide_eq_true ((wordCB_and_cond ..).trans (by decide))⟩

theorem EncodesItsOpcode.bLo (target : Nat) : EncodesItsOpcode.Statement (.bLo target) := fun _ =>
  ⟨⟨.bLo, 0x54000003#32, 0xFF00001F#32⟩, by decide, rfl, decide_eq_true ((wordCB_and_cond ..).trans (by decide))⟩

theorem EncodesItsOpcode.bHi (target : Nat) : EncodesItsOpcode.Statement (.bHi target) := fun _ =>
  ⟨⟨.bHi, 0x54000008#32, 0xFF00001F#32⟩, by decide, rfl, decide_eq_true ((wordCB_and_cond ..).trans (by decide))⟩

theorem EncodesItsOpcode.bLs (target : Nat) : EncodesItsOpcode.Statement (.bLs target) := fun _ =>
  ⟨⟨.bLs, 0x54000009#32, 0xFF00001F#32⟩, by decide, rfl, decide_eq_true ((wordCB_and_cond ..).trans (by decide))⟩

theorem EncodesItsOpcode.bGe (target : Nat) : EncodesItsOpcode.Statement (.bGe target) := fun _ =>
  ⟨⟨.bGe, 0x5400000A#32, 0xFF00001F#32⟩, by decide, rfl, decide_eq_true ((wordCB_and_cond ..).trans (by decide))⟩

theorem EncodesItsOpcode.bLt (target : Nat) : EncodesItsOpcode.Statement (.bLt target) := fun _ =>
  ⟨⟨.bLt, 0x5400000B#32, 0xFF00001F#32⟩, by decide, rfl, decide_eq_true ((wordCB_and_cond ..).trans (by decide))⟩

theorem EncodesItsOpcode.bGt (target : Nat) : EncodesItsOpcode.Statement (.bGt target) := fun _ =>
  ⟨⟨.bGt, 0x5400000C#32, 0xFF00001F#32⟩, by decide, rfl, decide_eq_true ((wordCB_and_cond ..).trans (by decide))⟩

theorem EncodesItsOpcode.bLe (target : Nat) : EncodesItsOpcode.Statement (.bLe target) := fun _ =>
  ⟨⟨.bLe, 0x5400000D#32, 0xFF00001F#32⟩, by decide, rfl, decide_eq_true ((wordCB_and_cond ..).trans (by decide))⟩

theorem EncodesItsOpcode.bMi (target : Nat) : EncodesItsOpcode.Statement (.bMi target) := fun _ =>
  ⟨⟨.bMi, 0x54000004#32, 0xFF00001F#32⟩, by decide, rfl, decide_eq_true ((wordCB_and_cond ..).trans (by decide))⟩

theorem EncodesItsOpcode.bPl (target : Nat) : EncodesItsOpcode.Statement (.bPl target) := fun _ =>
  ⟨⟨.bPl, 0x54000005#32, 0xFF00001F#32⟩, by decide, rfl, decide_eq_true ((wordCB_and_cond ..).trans (by decide))⟩

theorem EncodesItsOpcode.bVs (target : Nat) : EncodesItsOpcode.Statement (.bVs target) := fun _ =>
  ⟨⟨.bVs, 0x54000006#32, 0xFF00001F#32⟩, by decide, rfl, decide_eq_true ((wordCB_and_cond ..).trans (by decide))⟩

theorem EncodesItsOpcode.bVc (target : Nat) : EncodesItsOpcode.Statement (.bVc target) := fun _ =>
  ⟨⟨.bVc, 0x54000007#32, 0xFF00001F#32⟩, by decide, rfl, decide_eq_true ((wordCB_and_cond ..).trans (by decide))⟩

theorem EncodesItsOpcode.fcmps (n : FReg) (m : FReg) : EncodesItsOpcode.Statement (.fcmps n m) := fun _ =>
  ⟨⟨.fcmps, 0x1E202000#32, 0xFFE0FC1F#32⟩, by decide, rfl, decide_eq_true ((wordR_and_fcmp ..).trans (by decide))⟩

theorem EncodesItsOpcode.fcmpd (n : FReg) (m : FReg) : EncodesItsOpcode.Statement (.fcmpd n m) := fun _ =>
  ⟨⟨.fcmpd, 0x1E602000#32, 0xFFE0FC1F#32⟩, by decide, rfl, decide_eq_true ((wordR_and_fcmp ..).trans (by decide))⟩

end Sys2Proof.Laws
end

