-- ==== Sys2Proof/Laws/Step.lean ====
section
/-!
SUPPORT. All that one step of either engine can do, in terms of the effects of `Laws/Exec`; and what placing a word does
to the fetch.
-/

namespace Sys2Proof.Machine

/-- A call of `executeInstruction` does nothing, or has the effect of the fetched instruction. -/
theorem executeInstruction_effect (s : State) : ∃ u, executeInstruction s = .next u
    ∧ (u = s ∧ (s.err.isSome = true ∨ s.fetched = none)
      ∨ ∃ r, s.err = none ∧ s.fetched = some r ∧ exec r.instr s = .next u ∧ Effect r.instr s u) := by
  rcases executeInstruction_cases s with ⟨he, h⟩ | ⟨_, hf, h⟩ | ⟨r, he, hf, h⟩
  · exact ⟨s, h, .inl ⟨rfl, .inl he⟩⟩
  · exact ⟨s, h, .inl ⟨rfl, .inr hf⟩⟩
  · obtain ⟨u, hu, hx⟩ := exec_effect r.instr s
    exact ⟨u, h.trans hu, .inr ⟨r, he, hf, hu, hx⟩⟩

/-- A tick's fetch: the fault taken, or the front end after the instruction with its record shifted in. -/
theorem fetchTick_cases (s : State) (r : Record) : ∃ u, executeInstruction s = .next u
    ∧ (u.err.isSome = true ∧ fetchTick s r = .next u
      ∨ u.err = none ∧ fetchTick s r = .next (u.shiftTo (s.buf.fetchIn s.flushNext
          { record := r, before := s.snapshot, after := u.snapshot, fetchPC := s.pc, taken := u.branchTaken }))) := by
  obtain ⟨u, hu, _⟩ := executeInstruction_effect s
  refine ⟨u, hu, ?_⟩
  rw [fetchTick, hu]
  cases he : u.err with
  | some e => exact .inl ⟨rfl, by simp [he]⟩
  | none => exact .inr ⟨rfl, by simp [he]⟩

/-- A step does nothing, has an instruction's effect, shifts the buffer, or does both. -/
theorem step_cases {s t : State} (h : step s = .next t) :
    t = s ∨ (∃ r, s.err = none ∧ s.fetched = some r ∧ Effect r.instr s t) ∨ (∃ b, t = s.shiftTo b)
      ∨ ∃ r u b, s.err = none ∧ s.fetched = some r ∧ Effect r.instr s u ∧ t = u.shiftTo b := by
  have single : ∀ u, executeInstruction s = .next u →
      u = s ∨ ∃ r, s.err = none ∧ s.fetched = some r ∧ Effect r.instr s u := by
    intro u hu
    obtain ⟨u', hu', hc⟩ := executeInstruction_effect s
    rw [hu] at hu'
    cases hu'
    rcases hc with ⟨hc, _⟩ | ⟨r, he, hf, _, hx⟩
    · exact .inl hc
    · exact .inr ⟨r, he, hf, hx⟩
  rw [step] at h
  cases he : s.engine <;> simp only [he] at h
  · exact (single t h).imp id .inl
  · rcases clock_cases s with ⟨_, h'⟩ | ⟨_, _, _, h'⟩ | ⟨_, _, _, h'⟩ | ⟨_, _, _, _, h'⟩ | ⟨_, _, _, _, _, _, _, h'⟩
      | ⟨r, _, _, _, _, h'⟩
    · rw [h] at h'; cases h'; exact .inl rfl
    · rw [h] at h'; cases h'; exact .inl rfl
    · rw [h] at h'; cases h'; exact .inr (.inr (.inl ⟨_, rfl⟩))
    · rw [h] at h'; cases h'; exact .inr (.inr (.inl ⟨_, rfl⟩))
    · rw [h] at h'; cases h'; exact .inr (.inr (.inl ⟨_, rfl⟩))
    · obtain ⟨u, hu, ⟨_, ht⟩ | ⟨_, ht⟩⟩ := fetchTick_cases s r
      · rw [h, ht] at h'; cases h'
        exact (single _ hu).imp id .inl
      · rw [h, ht] at h'; cases h'
        rcases single u hu with rfl | ⟨r, he, hf, hx⟩
        · exact .inr (.inr (.inl ⟨_, rfl⟩))
        · exact .inr (.inr (.inr ⟨r, u, _, he, hf, hx, rfl⟩))

/-- A placed word is what the next step fetches. -/
theorem State.placeWord_fetched {s : State} {w : Code} {i : Instr} (h : decode s.idx w = .ok i) :
    (s.placeWord w).fetched = some (Record.bind i (s.idx + 1)) ∧ (s.placeWord w).err = none := by
  rw [State.placeWord, h]
  refine ⟨?_, rfl⟩
  simp only [State.fetched, placeRecord]
  split
  · rename_i hk
    simp [hk]
  · rw [List.getElem?_append_right (by omega), List.getElem?_replicate, if_pos (by omega)]

end Sys2Proof.Machine
end

