-- ==== Sys2Proof/Tests/Slice0.lean ====
section
/-!
SUPPORT. Tests on fixed values: ill-formed terms that each check refuses, words written out from the encodings of
spec/, one or two steps per instruction with the values of spec/95_test_vectors.md and of the instruction rules'
examples, and for each statement with hypotheses a state and operands that meet them.
-/

namespace Sys2Proof.Tests

open Sys2Proof Sys2Proof.Machine

/-! ## Helpers -/

/-- The reset state with some registers and some bytes of memory changed. -/
def small (registers : List (Reg × Word)) (cells : Memory) : State :=
  registers.foldl (fun s p => s.writeX p.1 p.2) (State.reset.setMem cells)

/-- The answer is a next state with property `p`. -/
def gives (r : Result) (p : State → Bool) : Bool :=
  match r with
  | .next t => p t
  | .fault _ => false
  | .refused _ => false

/-- The next state of an answer; the reset state when it is none. -/
def after (r : Result) : State :=
  match r with
  | .next t => t
  | .fault _ => State.reset
  | .refused _ => State.reset

/-- The answer is a next state. -/
abbrev Completes (r : Result) : Prop := gives r (fun _ => true) = true

/-- What `Completes` says: the hypothesis "answers a next state" of a statement is met by `after`. -/
theorem completes_answers {r : Result} (h : Completes r) : r = .next (after r) := by
  cases r with
  | next t => rfl
  | fault f => cases h
  | refused x => cases h

/-- The program of some instructions, on lines 1, 2, ... -/
def prog (is : List Instr) : Program where
  records := bindFrom 1 is
  branchTable := []

/-- The default launch of a program. -/
def launched (e : Engine) (is : List Instr) : State := State.loaded Launch.default e (prog is)

/-- The state after `k` steps of a launched program. -/
def stepped (e : Engine) (is : List Instr) (k : Nat) : State := after (steps k (launched e is))

/-- The first data address. -/
def dataStart : Word := 0x10000000#64

/-- The first address past the data window. -/
def dataEnd : Word := 0x7FFFFFFFF0#64

/-- The memory of vectors M1 to M11. -/
def loadBytesMemory : Memory :=
  [(0x10000000, 0x80#8), (0x10000001, 1#8), (0x10000002, 2#8), (0x10000003, 3#8), (0x10000004, 0x84#8),
   (0x10000005, 5#8), (0x10000006, 6#8), (0x10000007, 7#8), (0x10000008, 0xF8#8), (0x10000009, 9#8)]

/-- The store operand of vectors M12 to M17 and of 2.7. -/
def storeValue : Word := 0x1122334455667788#64

/-! ## Ill-formed terms are refused -/

theorem test_wf_arithmetic_immediate : (Instr.addi 1 2 4095).wf 9 = true ∧ (Instr.addi 1 2 4096).wf 9 = false := by decide
theorem test_wf_logical_immediate : (Instr.eori 1 2 4095).wf 9 = true ∧ (Instr.eori 1 2 4096).wf 9 = false := by decide
theorem test_wf_shift : (Instr.lsl 1 2 63).wf 9 = true ∧ (Instr.lsr 1 2 64).wf 9 = false := by decide
theorem test_wf_wide : (Instr.movz 1 65535 48).wf 9 = true ∧ (Instr.movz 1 65536 48).wf 9 = false := by decide
theorem test_wf_quadrant : (Instr.movk 1 1 16).wf 9 = true ∧ (Instr.movk 1 1 17).wf 9 = false := by decide
theorem test_wf_offset : (Instr.ldur 1 2 (-256)).wf 9 = true ∧ (Instr.ldur 1 2 (-257)).wf 9 = false
    ∧ (Instr.sturb 1 2 255).wf 9 = true ∧ (Instr.sturb 1 2 256).wf 9 = false := by decide
theorem test_wf_target : (Instr.b 8).wf 9 = true ∧ (Instr.b 9).wf 9 = false := by decide
theorem test_wf_distance : (Instr.cbz 1 262143).reachable 0 = true ∧ (Instr.cbz 1 262144).reachable 0 = false
    ∧ (Instr.b 0).reachable 33554432 = true ∧ (Instr.b 0).reachable 33554433 = false := by decide
theorem test_wf_memory : Memory.wf [(3, 1#8), (4, 2#8)] = true ∧ Memory.wf [(4, 2#8), (3, 1#8)] = false
    ∧ Memory.wf [(3, 1#8), (3, 1#8)] = false ∧ Memory.wf [(3, 0#8)] = false ∧ Memory.wf [(2 ^ 64, 1#8)] = false := by decide
theorem test_wf_params : Config.paramsDefault.legal 3 = true
    ∧ ({ Config.paramsDefault with textBase := 0x400002#64 }).legal 3 = false
    ∧ ({ Config.paramsDefault with textLimit := 0x400008#64 }).legal 3 = false
    ∧ ({ Config.paramsDefault with textLimit := 0x400000#64 }).legal 0 = false
    ∧ ({ Config.paramsDefault with textLimit := 0x8000000000000000#64 }).legal 3 = false
    ∧ ({ Config.paramsDefault with dynDataBase := 0x7FFFFFFFF0#64 }).legal 3 = false
    ∧ ({ Config.paramsDefault with stackBase := 0x8000000000000001#64 }).legal 3 = false := by decide
theorem test_wf_launch : ({ Launch.default with spReset := 0x7FFFFFFFE8#64 }).legal 3 = false
    ∧ ({ Launch.default with memInit := [(3, 0#8)] }).legal 3 = false := by decide
theorem test_wf_record : Record.wf 9 (Record.bind (.b 8) 1) = true
    ∧ Record.wf 9 ⟨.b 8, 1, controlOf .br⟩ = true ∧ Record.wf 9 ⟨.b 8, 1, controlOf .bl⟩ = false
    ∧ Program.wf (prog [.b 1]) = false := by decide

/-! ## Decoding (words of the instruction rules' examples; the B.cond words from R87 R92 with distance 2) -/

theorem test_decode_arith : decode 0 0x8B020023#32 = .ok (.add 3 1 2) ∧ decode 0 0xAB020020#32 = .ok (.adds 0 1 2)
    ∧ decode 0 0x913FFC23#32 = .ok (.addi 3 1 4095) ∧ decode 0 0xB1000422#32 = .ok (.addis 2 1 1)
    ∧ decode 0 0xCB020023#32 = .ok (.sub 3 1 2) ∧ decode 0 0xEB0500A4#32 = .ok (.subs 4 5 5)
    ∧ decode 0 0xD1000C22#32 = .ok (.subi 2 1 3) ∧ decode 0 0xF100143F#32 = .ok (.subis 31 1 5) := by decide
theorem test_decode_logical : decode 0 0x8A030041#32 = .ok (.and 1 2 3) ∧ decode 0 0xEA030041#32 = .ok (.ands 1 2 3)
    ∧ decode 0 0x9203FC41#32 = .ok (.andi 1 2 255) ∧ decode 0 0xF23FFC41#32 = .ok (.andis 1 2 4095)
    ∧ decode 0 0xAA0603E5#32 = .ok (.orr 5 31 6) ∧ decode 0 0xB2000421#32 = .ok (.orri 1 1 1)
    ∧ decode 0 0xCA010021#32 = .ok (.eor 1 1 1) ∧ decode 0 0xD23FFC41#32 = .ok (.eori 1 2 4095) := by decide
theorem test_decode_shift_wide : decode 0 0xD3601041#32 = .ok (.lsl 1 2 4) ∧ decode 0 0xD340FC41#32 = .ok (.lsr 1 2 63)
    ∧ decode 0 0xD2FFFFE1#32 = .ok (.movz 1 65535 48) ∧ decode 0 0xF2A24681#32 = .ok (.movk 1 4660 16) := by decide
theorem test_decode_load : decode 0 0xF8408041#32 = .ok (.ldur 1 2 8) ∧ decode 0 0xB89FC041#32 = .ok (.ldursw 1 2 (-4))
    ∧ decode 0 0x78402041#32 = .ok (.ldurh 1 2 2) ∧ decode 0 0x38400041#32 = .ok (.ldurb 1 2 0)
    ∧ decode 0 0xC840028A#32 = .ok (.ldxr 10 20) := by decide
theorem test_decode_store : decode 0 0xF8000381#32 = .ok (.stur 1 28 0) ∧ decode 0 0xB8004041#32 = .ok (.sturw 1 2 4)
    ∧ decode 0 0x781FE041#32 = .ok (.sturh 1 2 (-2)) ∧ decode 0 0x380FF041#32 = .ok (.sturb 1 2 255)
    ∧ decode 0 0xC8090297#32 = .ok (.stxr 23 9 20) := by decide
theorem test_decode_branch : decode 2 0x14000003#32 = .ok (.b 5) ∧ decode 2 0x94000004#32 = .ok (.bl 6)
    ∧ decode 0 0xD60003C0#32 = .ok (.br 30) ∧ decode 3 0xB4FFFFC1#32 = .ok (.cbz 1 1)
    ∧ decode 2 0xB5FFFFC9#32 = .ok (.cbnz 9 0) := by decide
theorem test_decode_cond : decode 0 0x54000040#32 = .ok (.bEq 2) ∧ decode 0 0x54000041#32 = .ok (.bNe 2)
    ∧ decode 0 0x54000042#32 = .ok (.bHs 2) ∧ decode 0 0x54000043#32 = .ok (.bLo 2) ∧ decode 0 0x54000044#32 = .ok (.bMi 2)
    ∧ decode 0 0x54000045#32 = .ok (.bPl 2) ∧ decode 0 0x54000046#32 = .ok (.bVs 2) ∧ decode 0 0x54000047#32 = .ok (.bVc 2)
    ∧ decode 0 0x54000048#32 = .ok (.bHi 2) ∧ decode 0 0x54000049#32 = .ok (.bLs 2) ∧ decode 0 0x5400004A#32 = .ok (.bGe 2)
    ∧ decode 0 0x5400004B#32 = .ok (.bLt 2) ∧ decode 0 0x5400004C#32 = .ok (.bGt 2)
    ∧ decode 2 0x5400002D#32 = .ok (.bLe 3) := by decide
theorem test_decode_float : decode 0 0x1E222020#32 = .ok (.fcmps 1 2) ∧ decode 0 0x1E622020#32 = .ok (.fcmpd 1 2) := by decide
theorem test_decode_rejects : decode 0 0#32 = .error .noSuchInstruction ∧ decode 0 0xFFFFFFFF#32 = .error .noSuchInstruction
    ∧ decode 1 0x17FFFFFE#32 = .error .targetBeforeProgram ∧ decode 2 0x17FFFFFE#32 = .ok (.b 0) := by decide
theorem test_encode : encode 0 (.add 3 1 2) = some 0x8B020023#32 ∧ encode 3 (.cbz 1 1) = some 0xB4FFFFC1#32
    ∧ encode 0 (.ldursw 1 2 (-4)) = some 0xB89FC041#32 ∧ encode 0 (.addi 1 1 4096) = none := by decide
theorem test_decodeTableWord : decodeTableWord 32 0x8B020023 = some (.add 3 1 2) ∧ decodeTableWord 32 0 = none := by decide
theorem test_withFetchWord : gives (step (State.reset.withFetchWord 32 0x910028E1)) (fun t => decide (t.readX 1 = 10#64)
    && decide (t.idx = 1)) = true := by decide

/-! ## Arithmetic (95_test_vectors 2.1 and 2.2) -/

theorem test_add_to_xzr : gives (exec (.add 31 1 2) (small [(1, 5), (2, 6)] [])) (fun t => decide (t.readX 31 = 0#64)
    && decide (t.x[31] = 0#64)) = true := by decide
theorem test_adds_vector_A1 : gives (exec (.adds 3 1 2) (small [(1, 0x7FFFFFFFFFFFFFFF), (2, 1)] []))
    (fun t => decide (t.readX 3 = 0x8000000000000000#64) && decide (t.flags = ⟨true, false, false, true⟩)) = true := by decide
theorem test_adds_vector_A3 : gives (exec (.adds 3 1 1) (small [(1, 0x8000000000000000)] []))
    (fun t => decide (t.readX 3 = 0#64) && decide (t.flags = ⟨false, true, true, true⟩)) = true := by decide
theorem test_addi_vector_A11 : gives (exec (.addi 3 1 4095) (small [(1, 0xFFFFFFFFFFFFFFFF)] []))
    (fun t => decide (t.readX 3 = 0xFFE#64)) = true := by decide
theorem test_addis_vector_A12 : gives (exec (.addis 3 1 1) (small [(1, 0xFFFFFFFFFFFFFFFF)] []))
    (fun t => decide (t.readX 3 = 0#64) && decide (t.flags = ⟨false, true, true, false⟩)) = true := by decide
theorem test_sub_vector_A15 : gives (exec (.sub 3 1 2) ((small [(2, 1)] []).setFlags ⟨false, true, false, true⟩))
    (fun t => decide (t.readX 3 = 0xFFFFFFFFFFFFFFFF#64) && decide (t.flags = ⟨false, true, false, true⟩)) = true := by decide
theorem test_subs_vector_S2 : gives (exec (.subs 3 31 31) (small [(3, 5)] []))
    (fun t => decide (t.readX 3 = 0#64) && decide (t.flags = ⟨false, true, false, false⟩)) = true := by decide
theorem test_subs_vector_S9 : gives (exec (.subs 3 1 2) (small [(1, 5), (2, 0x8000000000000000)] []))
    (fun t => decide (t.readX 3 = 0x8000000000000005#64) && decide (t.flags = ⟨true, false, false, false⟩)) = true := by decide
theorem test_subi_vector_S21 : gives (exec (.subi 3 1 1) (small [] []))
    (fun t => decide (t.readX 3 = 0xFFFFFFFFFFFFFFFF#64)) = true := by decide
theorem test_subis_vector_S20 : gives (exec (.subis 31 1 7) (small [(1, 7)] []))
    (fun t => decide (t.flags = ⟨false, true, true, false⟩)) = true := by decide

/-! ## Logical (95_test_vectors 2.3) -/

theorem test_and_vector_L1 : gives (exec (.and 3 1 2) (small [(1, 0xF0F0F0F00FF00FF0), (2, 0x00FF00FFFF0000FF)] []))
    (fun t => decide (t.readX 3 = 0x00F000F00F0000F0#64)) = true := by decide
theorem test_ands_vector_L5 : gives (exec (.ands 3 1 2)
      ((small [(1, 0x8000000000000000), (2, 0xFFFFFFFFFFFFFFFF)] []).setFlags ⟨false, true, true, true⟩))
    (fun t => decide (t.readX 3 = 0x8000000000000000#64) && decide (t.flags = ⟨true, false, false, false⟩)) = true := by decide
theorem test_andi_vector_L7 : gives (exec (.andi 3 1 4080) (small [(1, 0xF0F0F0F00FF00FF0)] []))
    (fun t => decide (t.readX 3 = 0xFF0#64)) = true := by decide
theorem test_andis_vector_L9 : gives (exec (.andis 3 1 0) ((small [(1, 0xF0F0F0F00FF00FF0)] []).setFlags ⟨true, false, true, true⟩))
    (fun t => decide (t.readX 3 = 0#64) && decide (t.flags = ⟨false, true, false, false⟩)) = true := by decide
theorem test_orr_vector_L3 : gives (exec (.orr 3 1 2) (small [(1, 0xF0F0F0F00FF00FF0), (2, 0x00FF00FFFF0000FF)] []))
    (fun t => decide (t.readX 3 = 0xF0FFF0FFFFF00FFF#64)) = true := by decide
theorem test_orri_vector_L10 : gives (exec (.orri 3 1 4095) (small [(1, 0xF0F0F0F00FF00FF0)] []))
    (fun t => decide (t.readX 3 = 0xF0F0F0F00FF00FFF#64)) = true := by decide
theorem test_eor_vector_L4 : gives (exec (.eor 3 1 2) (small [(1, 0xF0F0F0F00FF00FF0), (2, 0x00FF00FFFF0000FF)] []))
    (fun t => decide (t.readX 3 = 0xF00FF00FF0F00F0F#64)) = true := by decide
theorem test_eori_vector_L11 : gives (exec (.eori 3 1 4095) (small [(1, 0xF0F0F0F00FF00FF0)] []))
    (fun t => decide (t.readX 3 = 0xF0F0F0F00FF0000F#64)) = true := by decide

/-! ## Shifts and wide moves (95_test_vectors 2.4) -/

theorem test_lsl_vector_W2 : gives (exec (.lsl 3 1 4) (small [(1, 0x8000000000000001)] []))
    (fun t => decide (t.readX 3 = 0x10#64)) = true := by decide
theorem test_lsr_vector_W4 : gives (exec (.lsr 3 1 1) (small [(1, 0x8000000000000001)] []))
    (fun t => decide (t.readX 3 = 0x4000000000000000#64)) = true := by decide
theorem test_movz_vector_W10 : gives (exec (.movz 3 0xABCD 48) (small [(3, 0xFFFFFFFFFFFFFFFF)] []))
    (fun t => decide (t.readX 3 = 0xABCD000000000000#64)) = true := by decide
theorem test_movk_vector_W13 : gives (exec (.movk 3 0xABCD 32) (small [(3, 0x1111222233334444)] []))
    (fun t => decide (t.readX 3 = 0x1111ABCD33334444#64)) = true := by decide

/-! ## Loads and stores (95_test_vectors 2.5 and 2.6) -/

theorem test_ldur_vector_M9 : gives (exec (.ldur 3 9 1) (small [(9, dataStart)] loadBytesMemory))
    (fun t => decide (t.readX 3 = 0x01020384050607F8#64)) = true := by decide
theorem test_ldur_vector_F5 : gives (exec (.ldur 3 9 (-7)) (small [(9, dataEnd)] []))
    (fun t => decide (t.err = some ⟨.segmentFault dataEnd, 0⟩) && decide (t.idx = 0)) = true := by decide
theorem test_ldursw_vector_M2 : gives (exec (.ldursw 3 9 0) (small [(9, dataStart)] loadBytesMemory))
    (fun t => decide (t.readX 3 = 0xFFFFFFFF80010203#64)) = true := by decide
theorem test_ldursw_vector_M4 : gives (exec (.ldursw 3 9 6) (small [(9, dataStart)] loadBytesMemory))
    (fun t => decide (t.readX 3 = 0x000000000607F809#64)) = true := by decide
theorem test_ldurh_vector_M5 : gives (exec (.ldurh 3 9 0) (small [(9, dataStart)] loadBytesMemory))
    (fun t => decide (t.readX 3 = 0x8001#64)) = true := by decide
theorem test_ldurb_vector_M7 : gives (exec (.ldurb 3 9 0) (small [(9, dataStart)] loadBytesMemory))
    (fun t => decide (t.readX 3 = 0x80#64)) = true := by decide
theorem test_ldurb_vector_F12 : gives (exec (.ldurb 3 28 0) (small [(28, 8)] []))
    (fun t => decide (t.err = some ⟨.spAlignment 8#64, 0⟩)) = true := by decide
theorem test_stur_vector_M12 : gives (exec (.stur 3 9 0) (small [(9, dataStart), (3, storeValue)] []))
    (fun t => decide (t.mem = [(0x10000000, 0x11#8), (0x10000001, 0x22#8), (0x10000002, 0x33#8), (0x10000003, 0x44#8),
      (0x10000004, 0x55#8), (0x10000005, 0x66#8), (0x10000006, 0x77#8), (0x10000007, 0x88#8)])) = true := by decide
theorem test_stur_vector_M18 : gives (exec (.stur 31 9 0) (small [(9, dataStart)] [(0x10000000, 0xFF#8), (0x10000007, 0xEE#8)]))
    (fun t => decide (t.mem = [])) = true := by decide
theorem test_sturw_vector_M17 : gives (exec (.sturw 3 9 4) (small [(9, dataStart), (3, storeValue)] []))
    (fun t => decide (t.mem = [(0x10000004, 0x55#8), (0x10000005, 0x66#8), (0x10000006, 0x77#8), (0x10000007, 0x88#8)]))
    = true := by decide
theorem test_sturw_vector_F3 : gives (exec (.sturw 3 9 (-2)) (small [(9, dataStart), (3, storeValue)] []))
    (fun t => decide (t.err = some ⟨.segmentFault 0x0FFFFFFE#64, 0⟩) && decide (t.mem = [])) = true := by decide
theorem test_sturh_vector_M14 : gives (exec (.sturh 3 9 0) (small [(9, dataStart), (3, storeValue)] []))
    (fun t => decide (t.mem = [(0x10000000, 0x77#8), (0x10000001, 0x88#8)])) = true := by decide
theorem test_sturb_vector_M15 : gives (exec (.sturb 3 9 0) (small [(9, dataStart), (3, storeValue)] []))
    (fun t => decide (t.mem = [(0x10000000, 0x88#8)])) = true := by decide

/-! ## Exclusive access (95_test_vectors 2.7) -/

theorem test_ldxr_vector_E18 : gives (exec (.ldxr 31 9) (small [(9, dataStart)] []))
    (fun t => decide (t.mon = some dataStart) && decide (t.readX 31 = 0#64)) = true := by decide
theorem test_ldxr_vector_E20 : gives (exec (.ldxr 3 9) (small [(9, 0x0FFFFFF8)] []))
    (fun t => decide (t.mon = none) && decide (t.err = some ⟨.segmentFault 0x0FFFFFF8#64, 0⟩)) = true := by decide
theorem test_stxr_vector_E16 : gives (exec (.stxr 5 5 9) ((small [(9, dataStart), (5, storeValue)] []).setMonitor (some dataStart)))
    (fun t => decide (t.mem.readByte 0x10000000 = 0x11#8) && decide (t.readX 5 = 0#64) && decide (t.mon = none)
      && t.stxrSuccess) = true := by decide
theorem test_stxr_vector_E19 : gives (exec (.stxr 4 5 9) (small [(4, storeValue)] []))
    (fun t => decide (t.readX 5 = 1#64) && decide (t.err = none) && decide (t.mem = []) && !t.stxrSuccess) = true := by decide

/-! ## Branches (95_test_vectors 2.8, 46_branch examples) -/

theorem test_b : gives (exec (.b 5) (small [] [])) (fun t => decide (t.idx = 5) && t.branchTaken) = true := by decide
theorem test_bl_vector_B9 : gives (exec (.bl 2) (small [] []))
    (fun t => decide (t.idx = 2) && decide (t.readX 30 = 0x400004#64)) = true := by decide
theorem test_br_example : gives (exec (.br 30) (small [(30, 0x40000C)] [])) (fun t => decide (t.idx = 3) && t.branchTaken)
    = true := by decide
theorem test_br_vector_B16 : gives (exec (.br 1) (small [(1, 2)] []))
    (fun t => decide (t.err = some ⟨.pcAlignment 2#64, 0⟩) && decide (t.idx = 0)) = true := by decide
theorem test_cbz_vector_B4 : gives (exec (.cbz 1 2) (small [(1, 0x8000000000000000)] []))
    (fun t => decide (t.idx = 1) && !t.branchTaken) = true := by decide
theorem test_cbz_vector_B7 : gives (exec (.cbz 31 2) (small [] [])) (fun t => decide (t.idx = 2)) = true := by decide
theorem test_cbnz_vector_B5 : gives (exec (.cbnz 1 2) (small [(1, 0x8000000000000000)] []))
    (fun t => decide (t.idx = 2) && t.branchTaken) = true := by decide
theorem test_cbnz_vector_B6 : gives (exec (.cbnz 31 2) (small [] [])) (fun t => decide (t.idx = 1)) = true := by decide

/-- For each of the sixteen flag values in rising order of NZCV, whether the branch is taken. -/
def takenFor (i : Nat → Instr) : List Bool :=
  [false, true].flatMap fun n => [false, true].flatMap fun z => [false, true].flatMap fun c => [false, true].map fun v =>
    gives (exec (i 2) ((small [] []).setFlags ⟨n, z, c, v⟩)) (fun t => t.branchTaken && decide (t.idx = 2))

/-- A row of T and F as a list of Booleans. -/
def columns (row : List Nat) : List Bool := row.map (· == 1)

-- The columns of the table of fourteen conditions, flags 0000 to 1111.
theorem test_bEq : takenFor .bEq = columns [0, 0, 0, 0, 1, 1, 1, 1, 0, 0, 0, 0, 1, 1, 1, 1] := by decide
theorem test_bNe : takenFor .bNe = columns [1, 1, 1, 1, 0, 0, 0, 0, 1, 1, 1, 1, 0, 0, 0, 0] := by decide
theorem test_bHs : takenFor .bHs = columns [0, 0, 1, 1, 0, 0, 1, 1, 0, 0, 1, 1, 0, 0, 1, 1] := by decide
theorem test_bLo : takenFor .bLo = columns [1, 1, 0, 0, 1, 1, 0, 0, 1, 1, 0, 0, 1, 1, 0, 0] := by decide
theorem test_bHi : takenFor .bHi = columns [0, 0, 1, 1, 0, 0, 0, 0, 0, 0, 1, 1, 0, 0, 0, 0] := by decide
theorem test_bLs : takenFor .bLs = columns [1, 1, 0, 0, 1, 1, 1, 1, 1, 1, 0, 0, 1, 1, 1, 1] := by decide
theorem test_bGe : takenFor .bGe = columns [1, 0, 1, 0, 1, 0, 1, 0, 0, 1, 0, 1, 0, 1, 0, 1] := by decide
theorem test_bLt : takenFor .bLt = columns [0, 1, 0, 1, 0, 1, 0, 1, 1, 0, 1, 0, 1, 0, 1, 0] := by decide
theorem test_bGt : takenFor .bGt = columns [1, 0, 1, 0, 0, 0, 0, 0, 0, 1, 0, 1, 0, 0, 0, 0] := by decide
theorem test_bLe : takenFor .bLe = columns [0, 1, 0, 1, 1, 1, 1, 1, 1, 0, 1, 0, 1, 1, 1, 1] := by decide
theorem test_bMi : takenFor .bMi = columns [0, 0, 0, 0, 0, 0, 0, 0, 1, 1, 1, 1, 1, 1, 1, 1] := by decide
theorem test_bPl : takenFor .bPl = columns [1, 1, 1, 1, 1, 1, 1, 1, 0, 0, 0, 0, 0, 0, 0, 0] := by decide
theorem test_bVs : takenFor .bVs = columns [0, 1, 0, 1, 0, 1, 0, 1, 0, 1, 0, 1, 0, 1, 0, 1] := by decide
theorem test_bVc : takenFor .bVc = columns [1, 0, 1, 0, 1, 0, 1, 0, 1, 0, 1, 0, 1, 0, 1, 0] := by decide

/-! ## Float compares (95_test_vectors 2.9, 47_fp_compare examples) -/

/-- The reset state with two float registers. -/
def floats (a b : Word) : State := { State.reset with d := (State.reset.d.set 1 a).set 2 b }

theorem test_fcmps_less : gives (exec (.fcmps 1 2) (floats 0x3F800000 0x40000000))
    (fun t => decide (t.flags = ⟨true, false, false, false⟩)) = true := by decide
theorem test_fcmps_low_half_only : gives (exec (.fcmps 1 2) (floats 0xFFFFFFFF00000000 0x80000000))
    (fun t => decide (t.flags = ⟨false, true, true, false⟩)) = true := by decide
theorem test_fcmpd_unordered : gives (exec (.fcmpd 1 2) (floats 0x7FF8000000000000 0))
    (fun t => decide (t.flags = ⟨false, false, true, true⟩)) = true := by decide
theorem test_fcmpd_infinities : gives (exec (.fcmpd 1 2) (floats 0x7FF0000000000000 0xFFF0000000000000))
    (fun t => decide (t.flags = ⟨false, false, true, false⟩)) = true := by decide +kernel

/-! ## Witnesses: a state and operands that meet the hypotheses of each statement that has any

The name after `witness_` is the statement's. Where a statement has several clauses, each has its own conjunct, at the
ends of its range. -/

theorem witness_LoadEstablishesTheResetState : Launch.default.legal 0 = true ∧ Launch.default.legal 66060288 = true
    ∧ Launch.default.legal 66060289 = false := by decide

theorem witness_AddsFlagsAreCarryAndSignedOverflow : (0 : Nat) ≤ 4095 ∧ (4095 : Nat) ≤ 4095 := by decide

theorem witness_SubsFlagsFollowTheNegatedAddition : (0 : Nat) ≤ 4095 ∧ (4095 : Nat) ≤ 4095 := by decide

theorem witness_LogicalResultsAreBitwise : (0 : Nat) < 64 ∧ (63 : Nat) < 64 := by decide

theorem witness_WideMovesPlaceOneQuadrant : (65535 : Nat) ≤ 65535 ∧ 0 ∈ [0, 16, 32, 48] ∧ 48 ∈ [0, 16, 32, 48] := by decide

/-- The bytes at the low and at the high end of the data window, by size. -/
theorem witness_LoadsReadBigEndianAndZeroExtend :
    ((small [(9, dataStart)] []).baseReady 9 ∧ (small [(9, dataStart)] []).inData (effectiveAddress (small [(9, dataStart)] []) 9 0) 8)
    ∧ (State.reset.baseReady 28 ∧ State.reset.inData (effectiveAddress State.reset 28 (-8)) 8
      ∧ State.reset.inData (effectiveAddress State.reset 28 (-2)) 2
      ∧ State.reset.inData (effectiveAddress State.reset 28 (-1)) 1) := by
  unfold State.baseReady State.inData; decide

theorem witness_WordLoadSignExtends :
    (small [(9, dataStart)] []).baseReady 9 ∧ (small [(9, dataStart)] []).inData (effectiveAddress (small [(9, dataStart)] []) 9 0) 4
    ∧ State.reset.baseReady 28 ∧ State.reset.inData (effectiveAddress State.reset 28 (-4)) 4 := by
  unfold State.baseReady State.inData; decide

/-- As above, with the monitor on a doubleword that the store meets, one that it misses by a byte, and none. -/
theorem witness_StoresWriteTheirBytesAndBreakTheTag :
    Memory.wf State.reset.mem = true ∧ State.reset.baseReady 28
    ∧ State.reset.inData (effectiveAddress State.reset 28 (-8)) 8 ∧ State.reset.inData (effectiveAddress State.reset 28 (-4)) 4
    ∧ State.reset.inData (effectiveAddress State.reset 28 (-2)) 2 ∧ State.reset.inData (effectiveAddress State.reset 28 (-1)) 1
    ∧ State.reset.mon = none
    ∧ gives (exec (.sturb 1 9 7) ((small [(9, dataStart)] []).setMonitor (some dataStart))) (fun t => decide (t.mon = none))
    ∧ gives (exec (.sturb 1 9 8) ((small [(9, dataStart)] []).setMonitor (some dataStart)))
      (fun t => decide (t.mon = some dataStart)) := by
  unfold State.baseReady State.inData; decide

theorem witness_StoreThenLoadReturnsTheStoredBits :
    Memory.wf (small [(9, dataStart), (8, dataStart + 8)] []).mem = true
    ∧ (small [(9, dataStart), (8, dataStart + 8)] []).baseReady 9 ∧ (small [(9, dataStart), (8, dataStart + 8)] []).baseReady 8
    ∧ (3 : Reg) ≠ XZR
    ∧ effectiveAddress (small [(9, dataStart), (8, dataStart + 8)] []) 8 (-8)
      = effectiveAddress (small [(9, dataStart), (8, dataStart + 8)] []) 9 0
    ∧ checkRange State.reset.params dataStart 8 = none ∧ checkRange State.reset.params (dataEnd - 8) 8 = none
    ∧ checkRange State.reset.params (dataEnd - 4) 4 = none ∧ checkRange State.reset.params (dataEnd - 2) 2 = none
    ∧ checkRange State.reset.params (dataEnd - 1) 1 = none := by
  unfold State.baseReady; decide

theorem witness_LdxrLoadsAndSetsTheTag :
    (small [(9, dataStart)] []).baseReady 9 ∧ (small [(9, dataStart)] []).inData ((small [(9, dataStart)] []).readX 9) 8
    ∧ (small [(28, dataEnd - 16)] []).baseReady 28
    ∧ (small [(28, dataEnd - 16)] []).inData ((small [(28, dataEnd - 16)] []).readX 28) 8 := by
  unfold State.baseReady State.inData; decide

/-- The reset state with a base register and a tag. -/
def tagged (base tag : Word) : State := (small [(9, base), (4, storeValue)] []).setMonitor (some tag)

theorem witness_StxrSucceedsOnTheTaggedAddress :
    Memory.wf (tagged dataStart dataStart).mem = true ∧ (tagged dataStart dataStart).baseReady 9
    ∧ (tagged dataStart dataStart).mon = some ((tagged dataStart dataStart).readX 9)
    ∧ (tagged dataStart dataStart).inData ((tagged dataStart dataStart).readX 9) 8 := by
  unfold State.baseReady State.inData; decide

/-- No tag, and a tag one byte away, in the data window and outside it. -/
theorem witness_StxrFailsElsewhereWithoutAccess :
    (State.reset.baseReady 9 ∧ State.reset.mon ≠ some (State.reset.readX 9))
    ∧ (tagged dataStart (dataStart + 1)).baseReady 9
    ∧ (tagged dataStart (dataStart + 1)).mon ≠ some ((tagged dataStart (dataStart + 1)).readX 9)
    ∧ (tagged 0 dataStart).mon ≠ some ((tagged 0 dataStart).readX 9) := by
  unfold State.baseReady; decide

/-- Byte stores to the first and to the last byte of the tagged doubleword. -/
theorem witness_ExclusivePairSucceedsUnlessBroken :
    Memory.wf (small [(9, dataStart)] []).mem = true ∧ (small [(9, dataStart)] []).baseReady 9
    ∧ (small [(9, dataStart)] []).inData ((small [(9, dataStart)] []).readX 9) 8 ∧ (3 : Reg) ≠ 9
    ∧ (after (exec (.ldxr 3 9) (small [(9, dataStart)] []))).baseReady 9
    ∧ dataStart.toNat ≤ (effectiveAddress (after (exec (.ldxr 3 9) (small [(9, dataStart)] []))) 9 0).toNat
    ∧ (effectiveAddress (after (exec (.ldxr 3 9) (small [(9, dataStart)] []))) 9 7).toNat < dataStart.toNat + 8 := by
  unfold State.baseReady State.inData; decide

theorem witness_MisalignedStackPointerFaultsFirst :
    ((small [(28, 0x7FFFFFFFD8)] []).readX SP).toNat % 16 ≠ 0 ∧ ((small [(28, 15)] []).readX SP).toNat % 16 ≠ 0 := by decide

/-- A first byte below the window for size 8; a last byte on its end for the sizes 8, 4 and 2; a first byte on its end
for size 1. -/
theorem witness_AccessOutsideTheWindowFaults :
    State.reset.baseReady 9
    ∧ (small [(9, dataStart)] []).firstFailing (effectiveAddress (small [(9, dataStart)] []) 9 (-1)) 8 (dataStart - 1)
    ∧ (small [(9, dataEnd)] []).firstFailing (effectiveAddress (small [(9, dataEnd)] []) 9 (-7)) 8 dataEnd
    ∧ (small [(9, dataEnd)] []).firstFailing (effectiveAddress (small [(9, dataEnd)] []) 9 (-3)) 4 dataEnd
    ∧ (small [(9, dataEnd)] []).firstFailing (effectiveAddress (small [(9, dataEnd)] []) 9 (-1)) 2 dataEnd
    ∧ (small [(9, dataEnd)] []).firstFailing (effectiveAddress (small [(9, dataEnd)] []) 9 0) 1 dataEnd
    ∧ (tagged (dataEnd - 7) (dataEnd - 7)).firstFailing ((tagged (dataEnd - 7) (dataEnd - 7)).readX 9) 8 dataEnd
    ∧ (tagged (dataEnd - 7) (dataEnd - 7)).mon = some ((tagged (dataEnd - 7) (dataEnd - 7)).readX 9) := by
  unfold State.baseReady State.firstFailing State.outside; decide

/-- A misaligned target inside and one outside; an aligned one just below the text segment and one at its end. -/
theorem witness_BranchToRegisterFaultsOnABadTarget :
    ((small [(1, 0x400001)] []).readX 1).toNat % 4 ≠ 0 ∧ ((small [(1, 2)] []).readX 1).toNat % 4 ≠ 0
    ∧ (((small [(1, 0x3FFFFC)] []).readX 1).toNat % 4 = 0
      ∧ ((small [(1, 0x3FFFFC)] []).readX 1).toNat < State.reset.params.textBase.toNat)
    ∧ (((small [(1, 0x10000000)] []).readX 1).toNat % 4 = 0
      ∧ State.reset.params.textLimit.toNat ≤ ((small [(1, 0x10000000)] []).readX 1).toNat) := by decide

theorem witness_AFaultingInstructionChangesOnlyTheError :
    State.reset.err = none ∧ Completes (exec (.br 31) State.reset)
    ∧ (after (exec (.br 31) State.reset)).err ≠ none := ⟨rfl, rfl, by decide⟩

/-- A fault at the second record of a program names its line. -/
theorem witness_AFaultNamesTheLineOfItsRecord :
    (stepped .singleCycle [.add 1 2 3, .br 31] 1).err = none
    ∧ (stepped .singleCycle [.add 1 2 3, .br 31] 1).program.records[1]?.map Record.line = some 2
    ∧ (stepped .singleCycle [.add 1 2 3, .br 31] 1).idx = 1
    ∧ (stepped .singleCycle [.add 1 2 3, .br 31] 2).err.map (·.line) = some 2 := by decide

theorem witness_BranchAndLinkSavesTheNextAddress :
    State.reset.params.textBase.toNat % 4 = 0
    ∧ State.reset.params.textBase.toNat + 4 * (State.reset.idx + 1) < State.reset.params.textLimit.toNat
    ∧ 0x400000 + 4 * (66060286 + 1) < 0x10000000 := by decide

theorem witness_BranchToRegisterConvertsTheAddress :
    (((small [(1, 0x400000)] []).readX 1).toNat % 4 = 0
      ∧ State.reset.params.textBase.toNat ≤ ((small [(1, 0x400000)] []).readX 1).toNat)
    ∧ (((small [(1, 0x0FFFFFFC)] []).readX 1).toNat % 4 = 0
      ∧ ((small [(1, 0x0FFFFFFC)] []).readX 1).toNat < State.reset.params.textLimit.toNat) := by decide

theorem witness_BranchesAfterSubsCompareTheOperands :
    (State.reset.readX 1).toNat ≠ 2 ^ 63 ∧ ((small [(1, 0x8000000000000001)] []).readX 1).toNat ≠ 2 ^ 63 := by decide

/-- A NaN; equal zeros of opposite sign; a lesser and a greater pattern; in both formats. -/
theorem witness_FloatComparesFollowTheIeeeOrder :
    isNaN64 0x7FF0000000000001#64 ∧ (¬isNaN64 0x8000000000000000#64 ∧ order64 0x8000000000000000#64 = order64 0#64)
    ∧ order64 0xFFF0000000000000#64 < order64 0x8000000000000001#64 ∧ order64 0#64 < order64 0x7FF0000000000000#64
    ∧ ¬isNaN64 0x7FF0000000000000#64 ∧ isNaN32 0x7F800001#32 ∧ ¬isNaN32 0x7F800000#32
    ∧ order32 0x80000000#32 = order32 0#32 ∧ order32 0xFF800000#32 < order32 0x7F800000#32 := by
  unfold isNaN64 isNaN32; decide

/-- A state with a taken fault, under both engines' steps and every command. -/
theorem witness_AFaultHaltsTheMachineForGood :
    (after (exec (.br 31) State.reset)).err ≠ none
    ∧ gives ((after (exec (.br 31) State.reset)).command .executeInstruction) (fun t => decide (t = (after (exec (.br 31) State.reset))))
    ∧ gives ((after (exec (.br 31) State.reset)).command (.run 9)) (fun t => decide (t = (after (exec (.br 31) State.reset))))
    ∧ (stepped .pipelined [.br 31] 1).err ≠ none
    ∧ gives ((stepped .pipelined [.br 31] 1).command .clock) (fun t => decide (t = stepped .pipelined [.br 31] 1)) := by decide

/-- A program with a load-use stall, a CBZ stall of two ticks, a taken branch and its placeholder. -/
def hazardProgram : List Instr :=
  [.addi 1 31 1, .cbz 1 0, .subs 2 1 1, .bEq 5, .addi 3 31 9, .subi 4 1 1]

theorem witness_StepRunsTheDecodedInstruction :
    ((launched .singleCycle hazardProgram).err = none
      ∧ (launched .singleCycle hazardProgram).program.records[(launched .singleCycle hazardProgram).idx]?
        = some (Record.bind (.addi 1 31 1) 1)
      ∧ (launched .singleCycle hazardProgram).engine = .singleCycle)
    ∧ ((launched .pipelined hazardProgram).engine = .pipelined ∧ (launched .pipelined hazardProgram).stallNext = false
      ∧ (launched .pipelined hazardProgram).buf.slotIF = none)
    ∧ (stepped .pipelined hazardProgram 1).stallNext = false
    ∧ ((stepped .pipelined hazardProgram 1).buf.slotIF.map InFlight.taken) = some false
    ∧ Completes (exec (.cbz 1 0) (stepped .pipelined hazardProgram 1))
    ∧ Completes (exec (.br 31) (launched .pipelined [.br 31]))
    ∧ decode 0 (BitVec.ofNat 32 0x910028E1) = .ok (.addi 1 7 10) ∧ 0x910028E1 < 2 ^ 32 := by decide

theorem witness_StoresNeverReachTheProgram :
    Completes (step (launched .singleCycle [.stur 1 9 0]))
    ∧ Completes (step (launched .pipelined [.addi 1 31 1])) := by decide

theorem witness_NoStepWritesTheFloatFileOrTheParameters :
    Completes (step (launched .singleCycle [.fcmpd 1 2])) := by decide

theorem witness_OnlyConditionalBranchesReadTheFlags :
    (Instr.adds 3 1 2).mnemonic ∉ mnemonicsCondBranch ∧ setsFlagsOf (.adds 3 1 2)
    ∧ (Instr.add 3 1 2).mnemonic ∉ mnemonicsCondBranch ∧ ¬setsFlagsOf (.add 3 1 2)
    ∧ Completes (exec (.adds 3 1 2) State.reset)
    ∧ Completes (exec (.add 3 1 2) State.reset) := by
  unfold setsFlagsOf; decide

theorem witness_OnlyTheDestinationRegisterIsWritten :
    Completes (exec (.bl 2) State.reset) ∧ (registerFields (.bl 2)).dest ≠ some 29
    ∧ (registerFields (.stxr 4 5 9)).dest ≠ some 4 := by decide

theorem witness_ARegisterInNoFieldHasNoInfluence :
    Completes (exec (.stxr 4 5 9) State.reset)
    ∧ (registerFields (.stxr 4 5 9)).src1 ≠ some 6 ∧ (registerFields (.stxr 4 5 9)).src2 ≠ some 6
    ∧ (registerFields (.stxr 4 5 9)).dest ≠ some 6 := by decide

/-- An LDXR, an STXR and an ordinary store that change the monitor. -/
theorem witness_OnlyTheListedEventsChangeTheMonitor :
    gives (exec (.ldxr 3 9) (small [(9, dataStart)] [])) (fun t => decide (t.mon ≠ (small [(9, dataStart)] []).mon))
    ∧ gives (exec (.stxr 4 5 9) (tagged dataStart dataStart)) (fun t => decide (t.mon ≠ (tagged dataStart dataStart).mon))
    ∧ gives (exec (.stur 4 9 0) (tagged dataStart dataStart)) (fun t => decide (t.mon ≠ (tagged dataStart dataStart).mon))
    ∧ (Instr.ldxr 3 9).mnemonic ≠ .stxr := by decide

theorem witness_ControlWordsTellWhatInstructionsWrite :
    State.reset.err = none ∧ Completes (exec (.addi 1 2 3) State.reset)
    ∧ (after (exec (.addi 1 2 3) State.reset)).err = none ∧ (controlOf (Instr.addi 1 2 3).mnemonic).flagWrite ≠ .on
    ∧ (controlOf (Instr.addi 1 2 3).mnemonic).memWrite ≠ .on ∧ (controlOf (Instr.addi 1 2 3).mnemonic).uncondBranch ≠ .on
    ∧ (controlOf (Instr.addi 1 2 3).mnemonic).flagBranch ≠ .on ∧ (controlOf (Instr.addi 1 2 3).mnemonic).zeroBranch ≠ .on
    ∧ Completes (exec (.b 2) State.reset) ∧ (controlOf (Instr.b 2).mnemonic).regWrite ≠ .on
    ∧ (after (exec (.b 2) State.reset)).err = none := by decide

/-- The end of a program, exactly and beyond it. -/
theorem witness_AnEndedRunDoesNothing :
    (stepped .singleCycle [.addi 1 31 1] 1).err = none
    ∧ (stepped .singleCycle [.addi 1 31 1] 1).program.records.length ≤ (stepped .singleCycle [.addi 1 31 1] 1).idx
    ∧ State.reset.buf = ⟨none, none, none, none, none⟩ ∧ State.reset.program.records.length ≤ State.reset.idx := by decide

theorem witness_DecodingAnEncodedInstructionGivesItBack :
    encode 3 (.cbz 1 1) = some 0xB4FFFFC1#32 ∧ (Instr.ldur 1 2 (-256)).immediatesOk = true
    ∧ (Instr.ldur 1 2 (-256)).reachable 0 = true ∧ (Instr.cbz 1 262143).reachable 0 = true := by decide

theorem witness_EncodingADecodedWordGivesItBack : decode 3 0xB4FFFFC1#32 = .ok (.cbz 1 1) := by decide

/-- A word of each row under each clause, the field at its least or at its greatest refused value. -/
theorem witness_ReservedWordsAreNoInstructions :
    (∀ w ∈ [0x5400000E#32, 0x5400001F#32], w.extractLsb' 24 8 = 0x54#8 ∧ 13 < (w.extractLsb' 0 5).toNat)
    ∧ (∀ p ∈ [(0x458#11, 0x8B020423#32), (0x558#11, 0xAB02FC23#32), (0x658#11, 0xCB020423#32), (0x758#11, 0xEB02FC23#32),
        (0x450#11, 0x8A020423#32), (0x750#11, 0xEA02FC23#32), (0x550#11, 0xAA020423#32), (0x650#11, 0xCA02FC23#32)],
      (p.2).extractLsb' 21 11 = p.1 ∧ (p.2).extractLsb' 10 6 ≠ 0#6)
    ∧ (∀ p ∈ [(0x69B#11, 0xD3610041#32), (0x69A#11, 0xD35F0041#32)],
      (p.2).extractLsb' 21 11 = p.1 ∧ (p.2).extractLsb' 16 5 ≠ 0#5)
    ∧ ((0xD61F03C0#32).extractLsb' 21 11 = 0x6B0#11 ∧ (0xD61F03C0#32).extractLsb' 10 11 ≠ 0#11
      ∧ (0xD60003C1#32).extractLsb' 21 11 = 0x6B0#11 ∧ (0xD60003C1#32).extractLsb' 0 5 ≠ 0#5)
    ∧ (∀ p ∈ [(0x0F1#11, 0x1E222420#32), (0x0F1#11, 0x1E220020#32), (0x0F3#11, 0x1E62FC20#32)],
      (p.2).extractLsb' 21 11 = p.1 ∧ (p.2).extractLsb' 10 6 ≠ 0b001000#6)
    ∧ (∀ p ∈ [(0x0F1#11, 0x1E222021#32), (0x0F3#11, 0x1E62203F#32)],
      (p.2).extractLsb' 21 11 = p.1 ∧ (p.2).extractLsb' 0 5 ≠ 0#5)
    ∧ (∀ p ∈ [(0x7C2#11, 0xF8408441#32), (0x5C4#11, 0xB8808C41#32), (0x3C2#11, 0x78408441#32), (0x1C2#11, 0x38408C41#32),
        (0x7C0#11, 0xF8008441#32), (0x5C0#11, 0xB8008C41#32), (0x3C0#11, 0x78008441#32), (0x1C0#11, 0x38008C41#32)],
      (p.2).extractLsb' 21 11 = p.1 ∧ (p.2).extractLsb' 10 2 ≠ 0#2)
    ∧ ((0xC85F028A#32).extractLsb' 21 11 = 0x642#11 ∧ (0xC85F028A#32).extractLsb' 10 11 ≠ 0#11)
    ∧ ((0xC8090697#32).extractLsb' 21 11 = 0x640#11 ∧ (0xC8090697#32).extractLsb' 10 6 ≠ 0#6) :=
  ⟨by simp, by simp, by simp, by simp, by simp, by simp, by simp, by simp, by simp⟩

/-- The program of the source's end-to-end example. -/
def exampleText : Text := "ADDI X1, XZR, #10\nSUBI X2, X1, #3\nB.EQ done\ndone: ADD X3, X1, X2".toList

theorem witness_CompiledProgramsAreWellFormed :
    (match compile (linesOf exampleText) with
      | .ok p => decide (p.records.map Record.instr = [.addi 1 31 10, .subi 2 1 3, .bEq 3, .add 3 1 2]
          ∧ p.records[3]?.map Record.line = some 4)
      | .error _ => false) = true
    ∧ (match compile (linesOf "ADDI X1, XZR, #4096\nB nowhere".toList) with
      | .ok _ => false
      | .error es => decide (es.map CompileError.line = [1, 2])) = true := by decide

/-- A text of two lines, one with a label that the other branches to. -/
def labelledLines : List Text := ["done: CMP X1, X2".toList, "b done".toList]

theorem labelAt_done : LabelAt labelledLines "done".toList 0 :=
  ⟨"done: CMP X1, X2".toList, ["CMP".toList, "X1".toList, [','], "X2".toList], by decide, by decide, by decide⟩

/-- Every line of it spells an instruction, and its labels are distinct. -/
theorem witness_CompiledPrograms_spelled :
    LineSpells labelledLines "done: CMP X1, X2".toList (.subs 31 1 2)
    ∧ LineSpells labelledLines "b done".toList (.b 0)
    ∧ ∀ name j k, LabelAt labelledLines name j → LabelAt labelledLines name k → j = k := by
  refine ⟨⟨.upper, "CMP".toList, ["X1".toList, [','], "X2".toList], ?_, .inr ⟨"done".toList, by decide, by decide⟩⟩,
    ⟨.lower, "B".toList, ["done".toList], ?_, .inl (by decide)⟩, ?_⟩
  · iterate 11 refine .inr ?_
    exact .inl ⟨rfl, "X1".toList, "X2".toList, 1, 2, rfl, by decide, by decide, rfl⟩
  · iterate 7 refine .inr ?_
    exact .inl ⟨("B", Instr.b), by simp, rfl, "done".toList, 0, rfl, labelAt_done, rfl⟩
  · have first : ∀ name j, LabelAt labelledLines name j → j = 0 := by
      rintro name j ⟨line, rest, hl, ht, _⟩
      match j with
      | 0 => rfl
      | 1 =>
        have : line = "b done".toList := by simpa [labelledLines] using hl.symm
        subst this
        have two : tokensOf "b done".toList = ["b".toList, "done".toList] := by decide
        rw [two] at ht
        exact absurd (List.cons.inj (List.cons.inj ht).2).1 (by decide)
      | j + 2 => simp [labelledLines] at hl
    exact fun name j k hj hk => (first name j hj).trans (first name k hk).symm

/-- A line without a newline, a word without a separator, a sequence of digits. -/
theorem witness_CompiledPrograms_tokens :
    ("B a".toList ≠ [] ∧ '\n' ∉ "B a".toList)
    ∧ ("B.EQ".toList ≠ [] ∧ ∀ c ∈ "B.EQ".toList, c ∉ [' ', '\t', ',', '[', ']', ':'])
    ∧ ("10".toList ≠ [] ∧ (∀ c ∈ "10".toList, '0' ≤ c ∧ c ≤ '9')
      ∧ 10 = "10".toList.foldl (fun u c => 10 * u + (c.toNat - '0'.toNat)) 0) :=
  ⟨⟨by decide, by decide⟩, ⟨by decide, by simp⟩, by decide, by simp, by decide⟩

/-- CMP, CMPI, MOV and a wide move without a shift (R96 to R99), in either case. -/
theorem test_pseudo_instructions :
    (match compile (linesOf "CMP X1, X2\ncmpi X1, #3\nMOV X4, X5\nmovz X1, #5".toList) with
      | .ok p => p.records.map Record.instr
      | .error _ => []) = [.subs 31 1 2, .subis 31 1 3, .orr 4 31 5, .movz 1 5 0] := by decide

/-- The error of a line that does not parse. -/
def parseError (line : String) : Option LineError :=
  match parseLine line.toList with
  | .ok _ => none
  | .error x => some x

/-- The errors of a text. -/
def compileErrorsOf (text : String) : List CompileError :=
  match compile (linesOf text.toList) with
  | .ok _ => []
  | .error es => es

/-- A wrong and a missing token; an extra token, one in place of a wide move's comma, and a wrong, a missing and an extra
one after it; an immediate inside and outside its range; a label defined and not. -/
theorem witness_ParseErrorsCarryTheTokenAndThePermittedSet :
    (matchTokens [.xReg, .punct ',', .xReg] ["X1".toList, [','], "#1".toList]).toOption = none
    ∧ (matchTokens [.xReg, .punct ',', .xReg] ["X1".toList]).toOption = none
    ∧ (matchTokens (OperandForm.oneReg .br).expected ["X1".toList, "X2".toList]).toOption
      = some ([.reg 1], ["X2".toList])
    ∧ (matchTokens (OperandForm.wide .movz).expected ["X1".toList, [','], "#5".toList, "X2".toList]).toOption
      = some ([.reg 1, .imm 5 "#5".toList], ["X2".toList]) ∧ "X2".toList ≠ [',']
    ∧ (matchTokens (OperandForm.wide .movz).expected ["X1".toList, [','], "#5".toList, [',']]).toOption
      = some ([.reg 1, .imm 5 "#5".toList], [[',']])
    ∧ (matchTokens (wideTail .lower) ["LSL".toList, "#16".toList]).toOption = none
    ∧ (matchTokens (wideTail .upper) ["LSL".toList]).toOption = none
    ∧ (matchTokens (wideTail .upper) ["LSL".toList, "#16".toList, "X2".toList]).toOption
      = some ([.imm 16 "#16".toList], ["X2".toList])
    ∧ permittedImm12.allows 4095 = true ∧ permittedImm12.allows 4096 = false ∧ permittedOffset.allows (-257) = false
    ∧ [("a".toList, 3)].lookup "a".toList = some 3 ∧ [("a".toList, 3)].lookup "b".toList = none := by decide

/-- A line with a bad label name, with nothing after its label, with no admitted mnemonic, with admitted ones in either
case; and a text with an error of every kind. -/
theorem witness_ParseErrors_lines :
    (splitLabel (tokensOf "1a: ADD".toList) = (some "1a".toList, ["ADD".toList]) ∧ isLabelName "1a".toList = false)
    ∧ (splitLabel (tokensOf "a:".toList) = (some "a".toList, []) ∧ isLabelName "a".toList = true)
    ∧ splitLabel (tokensOf "Add X1".toList) = (none, ["Add".toList, "X1".toList])
    ∧ (sourceMnemonics.all fun m => decide (∀ c ∈ [LetterCase.upper, .lower], "Add".toList ≠ inCase c m.spelling)) = true
    ∧ SourceMnemonic.cmp ∈ sourceMnemonics ∧ "cmp".toList = inCase .lower SourceMnemonic.cmp.spelling
    ∧ (compileErrorsOf "a: Add\nBR #1\nBR\nBR X1 X2\nB b\na: BR X1\nMOVZ X1, #5, LSL #17").map CompileError.kind
      = [.unsupportedInstruction, .invalidToken, .missingTokens, .unexpectedToken, .undefinedLabel, .duplicateLabel,
        .immediateOutOfBounds] := by decide

/-- The kinds of R101 with the token each echoes and the set it permits. -/
theorem test_parse_errors :
    parseError "MUL X1, X2, X3" = some ⟨.unsupportedInstruction, "MUL".toList, [.mnemonic, .labelDefinition]⟩
    ∧ parseError "a: Add X1, X2, X3" = some ⟨.unsupportedInstruction, "Add".toList, [.mnemonic]⟩
    ∧ parseError "ADD X1, X2, #3" = some ⟨.invalidToken, "#3".toList, [.xReg]⟩
    ∧ parseError "MOVZ X1, #5, lsl #16" = some ⟨.invalidToken, "lsl".toList, [.spelled "LSL".toList]⟩
    ∧ parseError "ADD X1, X2" = some ⟨.missingTokens, [], [.punct ',']⟩ := by decide
theorem test_extra_tokens :
    parseError "ADD X1, X2, X3 X4" = some ⟨.unexpectedToken, "X4".toList, [.endOfLine]⟩
    ∧ parseError "MOVZ X1,#5 X2" = some ⟨.unexpectedToken, "X2".toList, [.punct ',', .endOfLine]⟩
    ∧ parseError "MOVZ X1,#5, LSL #16 X2" = some ⟨.unexpectedToken, "X2".toList, [.endOfLine]⟩
    ∧ parseError "1a: ADD X1, X2, X3" = some ⟨.invalidToken, "1a".toList, [.labelName]⟩
    ∧ parseError "movk X1, #5, lsl #16" = none ∧ parseError "MOVZ X1,#5" = none := by decide
theorem test_decode_errors :
    compileErrorsOf "a: ADDI X1, XZR, #4096\nB b\na: ADD X1, X1, X1" = [⟨.immediateOutOfBounds, 1, "#4096".toList, [.valueIn (.range 0 4095)]⟩,
        ⟨.undefinedLabel, 2, "b".toList, [.definedLabel "a".toList, .definedLabel "a".toList]⟩,
        ⟨.duplicateLabel, 3, "a".toList, [.newLabel]⟩] := by decide

/-- A launch whose reset stack pointer is not a multiple of 16. -/
def illegalLaunch : Launch := { Launch.default with spReset := 0x7FFFFFFFE8#64 }

/-- A text that compiles and one that does not, under a legal and an illegal launch. -/
theorem witness_ATextWithErrorsNeverRuns :
    Completes (loadText Launch.default .singleCycle exampleText)
    ∧ Completes (loadText Launch.default .pipelined "MUL X1, X2, X3".toList)
    ∧ (after (loadText Launch.default .pipelined "MUL X1, X2, X3".toList)).compileErrors ≠ []
    ∧ (compile (linesOf exampleText)).toOption.map (·.records.length) = some 4
    ∧ Launch.default.legal 4 = true ∧ illegalLaunch.legal 4 = false
    ∧ (compile (linesOf "MUL X1, X2, X3".toList)).toOption = none
    ∧ Launch.default.legal 0 = true ∧ illegalLaunch.legal 0 = false := by decide

/-- Words that are all instructions, the second a branch back to the first; one that is none; one that branches just
past the end; a legal and an illegal launch. -/
theorem witness_WordLoaderDecodesEveryWordOrRefuses :
    Completes (loadWords Launch.default .pipelined [0x8B020023#32, 0x54FFFFED#32])
    ∧ [0x8B020023#32, 0x54FFFFED#32][1]? = some 0x54FFFFED#32
    ∧ decode 0 0x8B020023#32 = .ok (.add 3 1 2) ∧ (Instr.add 3 1 2).target? = none
    ∧ decode 1 0x54FFFFED#32 = .ok (.bLe 0) ∧ (Instr.bLe 0).target? = some 0
    ∧ [0x8B020023#32, 0#32][1]? = some 0#32 ∧ decode 1 0#32 = .error .noSuchInstruction
    ∧ [0x8B020023#32, 0x14000001#32][1]? = some 0x14000001#32 ∧ decode 1 0x14000001#32 = .ok (.b 2)
    ∧ Launch.default.legal 2 = true ∧ illegalLaunch.legal 2 = false := by decide

theorem witness_EnginesAreNotMixed :
    (launched .singleCycle []).engine = .singleCycle ∧ (launched .pipelined []).engine = .pipelined := by decide

theorem witness_EveryStepKeepsTheCoreInvariant :
    CoreInv (launched .singleCycle hazardProgram)
    ∧ Completes (step (launched .singleCycle hazardProgram))
    ∧ CoreInv (stepped .pipelined hazardProgram 4)
    ∧ Completes (step (stepped .pipelined hazardProgram 4)) :=
  ⟨⟨by decide, by decide, by decide, by decide, by decide⟩, by decide,
    ⟨by decide, by decide, by decide, by decide, by decide⟩, by decide⟩

theorem witness_InvariantsHoldAfterResetAndLoad :
    Launch.default.legal (prog hazardProgram).records.length = true ∧ Program.wf (prog hazardProgram) = true := by decide

/-- A state of a pipelined run with three records in flight and a stall pending. -/
def stalledState : State := stepped .pipelined [.addi 1 31 1, .cbz 1 0] 3

/-- A state of a pipelined run with a taken branch in IF. -/
def branchedState : State := stepped .pipelined [.b 2, .addi 1 31 1, .addi 2 31 2] 1

/-- `Chained`, as a check that can be evaluated. -/
def chainedOk (start : Snapshot) : List InFlight → Snapshot → Bool
  | [], final => decide (start = final)
  | p :: ps, final => decide (p.before = start) && chainedOk p.after ps final

theorem chained_of_ok (ps : List InFlight) : ∀ {start final : Snapshot}, chainedOk start ps final = true →
    Chained start ps final := by
  induction ps with
  | nil => intro start final h; simp only [chainedOk, decide_eq_true_eq] at h; exact h
  | cons p ps ih =>
    intro start final h
    simp only [chainedOk, Bool.and_eq_true, decide_eq_true_eq] at h
    exact ⟨h.1, ih h.2⟩

/-- Behind a taken branch in ID stands a bubble or a record that changes nothing, as a check. -/
def placeholderOk (b : Buffer) : Bool :=
  match b.slotID, b.slotIF with
  | some p, some q => !p.taken || (decide (q.before = q.after) && !q.taken)
  | some _, none => true
  | none, _ => true

theorem pipeInv_of_ok {s : State} (hr : PipeRegs s) (hc : chainedOk s.vis s.buf.inFlight s.snapshot = true)
    (hp : placeholderOk s.buf = true) : PipeInv s := by
  refine ⟨hr, chained_of_ok _ hc, fun p h ht q hq => ?_⟩
  simpa [placeholderOk, h, hq, ht] using hp

theorem stalledState_inv : PipeInv stalledState := pipeInv_of_ok (by constructor <;> decide) (by decide) (by decide)

theorem witness_EveryTickKeepsThePipelineInvariant :
    PipeInv stalledState ∧ Completes (clock stalledState) := ⟨stalledState_inv, by decide⟩

theorem branchedState_inv : PipeInv branchedState := pipeInv_of_ok (by constructor <;> decide) (by decide) (by decide)

/-- The tick after a taken branch, and the fetch under the flush that follows it. -/
theorem witness_placeholder_and_flush :
    PipeInv branchedState ∧ Completes (clock branchedState) ∧ (after (clock branchedState)).flushNext = true
    ∧ Completes (clock (after (clock branchedState))) := ⟨branchedState_inv, by decide, by decide, by decide⟩

/-- A stall; a drain; a taken branch in IF with a record after it and, the last instruction of its program, with none; a
fetch; a record leaving WB and a bubble in WB. -/
theorem witness_ATickMovesTheBufferAsTheSpecWrites :
    (stalledState.err = none ∧ Completes (clock stalledState) ∧ (after (clock stalledState)).err = none
      ∧ stalledState.buf ≠ ⟨none, none, none, none, none⟩ ∧ stalledState.stallNext = true ∧ stalledState.buf.slotWB = none)
    ∧ ((stepped .pipelined [.addi 1 31 1] 1).fetched = none ∧ (stepped .pipelined [.addi 1 31 1] 1).stallNext = false
      ∧ (stepped .pipelined [.addi 1 31 1] 1).buf ≠ ⟨none, none, none, none, none⟩
      ∧ Completes (clock (stepped .pipelined [.addi 1 31 1] 1)))
    ∧ (branchedState.err = none ∧ branchedState.fetched.isSome = true ∧ branchedState.stallNext = false
      ∧ branchedState.buf.slotIF.map InFlight.taken = some true ∧ Completes (clock branchedState)
      ∧ branchedState.buf.slotIF.map (fun p => (p.fetchPC - branchedState.params.textBase).toNat / 4 + 1) = some 1
      ∧ branchedState.program.records[1]? = some (Record.bind (.addi 1 31 1) 2))
    ∧ ((stepped .pipelined [.b 0] 1).fetched.isSome = true ∧ (stepped .pipelined [.b 0] 1).stallNext = false
      ∧ (stepped .pipelined [.b 0] 1).buf.slotIF.map InFlight.taken = some true
      ∧ (stepped .pipelined [.b 0] 1).program.records.length = 1 ∧ Completes (clock (stepped .pipelined [.b 0] 1)))
    ∧ ((launched .pipelined hazardProgram).fetched.isSome = true ∧ (launched .pipelined hazardProgram).buf.slotIF = none
      ∧ Completes (clock (launched .pipelined hazardProgram)))
    ∧ ((stepped .pipelined [.addi 1 31 1] 5).buf.slotWB.isSome = true
      ∧ Completes (clock (stepped .pipelined [.addi 1 31 1] 5))) := by decide

/-- What the detectors say: the three hazard flags, the flush and the two forwarding diagnostics. -/
def detectors (s : State) : List Bool × List Forward := ([s.hazCB, s.hazFlag, s.hazLoad, s.flushNext], [s.fwdA, s.fwdB])

/-- A load of X1 from the last stack bytes. -/
def loadX1 : Instr := .ldur 1 28 (-16)

/-- The premises of the statement at the tick after `k` ticks of a program, and what the detectors say after it. -/
def detects (is : List Instr) (k : Nat) (hazards : List Bool) (forwards : List Forward) : Bool :=
  let s := stepped .pipelined is k
  decide (s.err = none) && decide (s.buf ≠ ⟨none, none, none, none, none⟩)
    && gives (clock s) (fun t => decide (t.err = none) && decide (detectors t = (hazards, forwards)))

/-- R332: a producer in EX, in MEM, in WB; register 31. -/
theorem witness_HazardDetectorsFollowTheShiftedBuffer :
    detects [.addi 1 31 1, .cbz 1 0] 2 [true, false, false, false] [.noForward, .noForward] = true
    ∧ detects [.addi 1 31 1, .cbz 1 0] 3 [true, false, false, false] [.noForward, .noForward] = true
    ∧ detects [.addi 1 31 1, .cbz 1 0] 4 [false, false, false, false] [.noForward, .noForward] = true
    ∧ detects [.addi 31 1 1, .cbnz 31 0] 2 [false, false, false, false] [.noForward, .noForward] = true := by
  decide +kernel

/-- R333: a flag-setting instruction in EX, in MEM; none. -/
theorem witness_HazardDetectors_flags :
    detects [.subs 2 1 1, .bNe 0] 2 [false, true, false, false] [.noForward, .noForward] = true
    ∧ detects [.subs 2 1 1, .bNe 0] 3 [false, true, false, false] [.noForward, .noForward] = true
    ∧ detects [.add 2 1 1, .bEq 0] 2 [false, false, false, false] [.noForward, .noForward] = true := by decide +kernel

/-- R334 R335: a load in EX, one tick later, of register 31, and with a compare-branch hazard too. R340: a taken branch. -/
theorem witness_HazardDetectors_loads :
    detects [loadX1, .add 2 1 1] 2 [false, false, true, false] [.noForward, .noForward] = true
    ∧ detects [loadX1, .add 2 1 1] 3 [false, false, false, false] [.noForward, .noForward] = true
    ∧ detects [.ldur 31 28 (-16), .add 2 31 31] 2 [false, false, false, false] [.noForward, .noForward] = true
    ∧ detects [loadX1, .cbnz 1 0] 2 [true, false, true, false] [.noForward, .noForward] = true
    ∧ (stepped .pipelined [loadX1, .cbnz 1 0] 3).stallReason = some .compareBranch
    ∧ detects [.b 1, .addi 1 31 1] 1 [false, false, false, true] [.noForward, .noForward] = true := by decide +kernel

/-- R336 R337: after a load-use stall the producer is in WB; the nearer of two producers is the one forwarded. -/
theorem witness_HazardDetectors_forwards :
    detects [loadX1, .add 2 1 1] 4 [false, false, false, false] [.memwb, .memwb] = true
    ∧ detects [.movz 1 5 0, .movz 1 6 0, .sub 3 1 1] 4 [false, false, false, false] [.exmem, .exmem] = true
    ∧ detects [.movz 1 5 0, .movz 2 6 0, .sub 3 1 2] 4 [false, false, false, false] [.memwb, .exmem] = true := by
  decide +kernel

/-- A tick whose fetched instruction faults. -/
theorem witness_ATickExecutesAtMostOneInstruction :
    Completes (clock (launched .pipelined [.br 31])) ∧ (launched .pipelined [.br 31]).err = none
    ∧ (after (clock (launched .pipelined [.br 31]))).err ≠ none := by decide

theorem witness_StallsLastAtMostTwoTicks :
    PipeRegs stalledState ∧ stalledState.err = none ∧ stalledState.stallNext = true ∧ Completes (clock stalledState)
    ∧ (after (clock stalledState)).stallNext = true ∧ Completes (clock (after (clock stalledState))) :=
  ⟨stalledState_inv.regs, by decide, by decide, by decide, by decide, by decide⟩

theorem witness_TheDrainEndsWithTheFrontEndVisible :
    PipeInv stalledState ∧ stalledState.engine = .pipelined ∧ stalledState.err = none
    ∧ stalledState.program.records.length ≤ stalledState.idx := ⟨stalledState_inv, by decide, by decide, by decide⟩

theorem witness_DiagnosticsInfluenceNothing : Completes (step stalledState) ∧ Completes (step State.reset) := by decide

theorem witness_PipelinedRunsFollowTheSingleCycleRun : Completes (steps 7 (launched .pipelined hazardProgram)) := by decide

theorem witness_ASuccessfulRunDrainsToTheSameResult :
    Completes (run 9 (launched .singleCycle [.addi 1 31 10, .subi 2 1 3]))
    ∧ (after (run 9 (launched .singleCycle [.addi 1 31 10, .subi 2 1 3]))).succeeded := by
  unfold State.succeeded; decide

/-! ## The pipeline on the source's worked sequence (70_reset R347, 95_test_vectors S5) -/

/-- `MOVZ X1,#5 ; MOVZ X2,#6 ; SUB X3,X1,X2`. -/
def forwardingProgram : List Instr := [.movz 1 5 0, .movz 2 6 0, .sub 3 1 2]

theorem test_forwarding_sequence :
    (stepped .pipelined forwardingProgram 5).fwdA = .memwb ∧ (stepped .pipelined forwardingProgram 5).fwdB = .exmem
    ∧ (stepped .pipelined forwardingProgram 5).stallNext = false
    ∧ (stepped .pipelined forwardingProgram 8).observeX 3 = 0xFFFFFFFFFFFFFFFF#64
    ∧ (stepped .pipelined forwardingProgram 7).observeX 3 = 0#64 := by decide

end Sys2Proof.Tests
end

section
/-!
PROOFS. What no step changes: everything that only a load sets.
-/

namespace Sys2Proof.Machine

/-- What only a load sets: the float file, the program, the compile errors, the parameters and the engine. -/
structure SameLoad (s t : State) : Prop where
  d : t.d = s.d
  program : t.program = s.program
  compileErrors : t.compileErrors = s.compileErrors
  params : t.params = s.params
  engine : t.engine = s.engine

theorem SameLoad.refl (s : State) : SameLoad s s := ⟨rfl, rfl, rfl, rfl, rfl⟩

theorem SameLoad.shiftTo {s t : State} (h : SameLoad s t) (b : Buffer) : SameLoad s (t.shiftTo b) :=
  ⟨h.d, h.program, h.compileErrors, h.params, h.engine⟩

theorem Untouched.sameLoad {s t : State} (h : Untouched s t) : SameLoad s t :=
  ⟨h.d, h.program, h.compileErrors, h.params, h.engine⟩

/-- A step of either engine keeps what the load set. -/
theorem step_sameLoad {s t : State} (h : step s = .next t) : SameLoad s t := by
  rcases step_cases h with rfl | ⟨r, _, _, hx⟩ | ⟨b, rfl⟩ | ⟨r, u, b, _, _, hx, rfl⟩
  · exact .refl _
  · exact hx.untouched.sameLoad
  · exact (SameLoad.refl s).shiftTo b
  · exact hx.untouched.sameLoad.shiftTo b

theorem Untouched.refl (s : State) : Untouched s s := by constructor <;> rfl

/-- A call of `executeInstruction` keeps what no instruction changes, the buffer and the visible snapshot included. -/
theorem executeInstruction_untouched {s t : State} (h : executeInstruction s = .next t) : Untouched s t := by
  obtain ⟨u, hu, hc⟩ := executeInstruction_effect s
  cases hu.symm.trans h
  rcases hc with ⟨rfl, _⟩ | ⟨_, _, _, _, hx⟩
  · exact .refl _
  · exact hx.untouched

/-- An instruction takes a fault, or leaves the error as it was. -/
theorem Effect.err_cases {i : Instr} {s t : State} (h : Effect i s t) : (∃ f, t = s.takeFault f) ∨ t.err = s.err := by
  cases h with
  | fault f _ => exact .inl ⟨f, rfl⟩
  | _ => exact .inr rfl

/-- An `executeInstruction` that leaves an error has not touched the registers and the flags. -/
theorem executeInstruction_snapshot_of_err {s t : State} (h : executeInstruction s = .next t) (he : t.err ≠ none) :
    t.snapshot = s.snapshot := by
  obtain ⟨u, hu, hc⟩ := executeInstruction_effect s
  cases hu.symm.trans h
  rcases hc with ⟨rfl, _⟩ | ⟨_, hs, _, _, hx⟩
  · rfl
  · rcases hx.err_cases with ⟨f, rfl⟩ | hk
    · rfl
    · exact absurd (hk.trans hs) he

end Sys2Proof.Machine
end

section
/-!
PROOFS. The front end alone determines what an instruction does: exchanging all other fields of the state commutes with
every instruction (70_reset R320).
-/

namespace Sys2Proof.Machine

theorem SameFrontEnd.refl (s : State) : SameFrontEnd s s := by constructor <;> rfl

theorem SameFrontEnd.snapshot {s t : State} (h : SameFrontEnd s t) : t.snapshot = s.snapshot := by
  simp only [State.snapshot, h.x, h.d, h.flags]

theorem SameFrontEnd.fetched {s t : State} (h : SameFrontEnd s t) : t.fetched = s.fetched := by
  simp only [State.fetched, h.program, h.idx]

/-- A shift of the buffer leaves the front end alone. -/
theorem SameFrontEnd.shiftTo {s t : State} (h : SameFrontEnd s t) (b : Buffer) : SameFrontEnd s (t.shiftTo b) :=
  ⟨h.x, h.d, h.flags, h.idx, h.mon, h.branchTaken, h.stxrSuccess, h.err, h.mem, h.program, h.params⟩

/-- The state with the front end of `s`; all other fields stay. -/
def State.withFrontEnd (b s : State) : State :=
  { b with x := s.x, d := s.d, flags := s.flags, idx := s.idx, mon := s.mon, branchTaken := s.branchTaken,
           stxrSuccess := s.stxrSuccess, err := s.err, mem := s.mem, program := s.program, params := s.params }

theorem sameFrontEnd_withFrontEnd (b s : State) : SameFrontEnd s (b.withFrontEnd s) := by constructor <;> rfl

theorem SameFrontEnd.withFrontEnd_eq {s t : State} (h : SameFrontEnd s t) : t.withFrontEnd s = t := by
  simp only [State.withFrontEnd, ← h.x, ← h.d, ← h.flags, ← h.idx, ← h.mon, ← h.branchTaken, ← h.stxrSuccess, ← h.err,
    ← h.mem, ← h.program, ← h.params]

/-- An answer with the non-front-end fields of `b`. -/
def onBackEnd (b : State) : Result → Result
  | .next t => .next (b.withFrontEnd t)
  | .fault f => .fault f
  | .refused r => .refused r

@[simp] theorem withFrontEnd_mon (b s : State) : (b.withFrontEnd s).mon = s.mon := rfl

@[simp] theorem withFrontEnd_err (b s : State) : (b.withFrontEnd s).err = s.err := rfl

@[simp] theorem withFrontEnd_params (b s : State) : (b.withFrontEnd s).params = s.params := rfl

@[simp] theorem withFrontEnd_fetched (b s : State) : (b.withFrontEnd s).fetched = s.fetched := rfl

@[simp] theorem withFrontEnd_readX (b s : State) (r : Reg) : (b.withFrontEnd s).readX r = s.readX r := rfl

theorem withFrontEnd_memRead (b s : State) (a : Word) (n : Nat) : (b.withFrontEnd s).memRead a n = s.memRead a n := rfl

theorem withFrontEnd_memWrite (b s : State) (a : Word) (n : Nat) (v : Word) :
    (b.withFrontEnd s).memWrite a n v = (s.memWrite a n v).map b.withFrontEnd := by
  cases h : checkRange s.params a n with
  | none => rw [State.memWrite_of_range v h, State.memWrite_of_range (s := b.withFrontEnd s) v h]; rfl
  | some f => rw [State.memWrite_of_fault v h, State.memWrite_of_fault (s := b.withFrontEnd s) v h]; rfl

theorem withFrontEnd_baseFault (b s : State) (n : Reg) : baseFault (b.withFrontEnd s) n = baseFault s n := rfl

theorem withFrontEnd_effectiveAddress (b s : State) (n : Reg) (off : Int) :
    effectiveAddress (b.withFrontEnd s) n off = effectiveAddress s n off := rfl

theorem loadRegister_withFrontEnd (b s : State) (t n : Reg) (off : Int) (size : Nat) (ext : Word → Word) :
    loadRegister t n off size ext (b.withFrontEnd s) = onBackEnd b (loadRegister t n off size ext s) := by
  unfold loadRegister
  rw [withFrontEnd_baseFault, withFrontEnd_effectiveAddress, withFrontEnd_memRead]
  cases baseFault s n with
  | some f => rfl
  | none => cases s.memRead (effectiveAddress s n off) size <;> rfl

theorem storeRegister_withFrontEnd (b s : State) (t n : Reg) (off : Int) (size : Nat) :
    storeRegister t n off size (b.withFrontEnd s) = onBackEnd b (storeRegister t n off size s) := by
  unfold storeRegister
  rw [withFrontEnd_baseFault, withFrontEnd_effectiveAddress, withFrontEnd_readX, withFrontEnd_memWrite]
  cases baseFault s n with
  | some f => rfl
  | none => cases s.memWrite (effectiveAddress s n off) size (s.readX t) <;> rfl

theorem execLdxr_withFrontEnd (b s : State) (t n : Reg) :
    execLdxr t n (b.withFrontEnd s) = onBackEnd b (execLdxr t n s) := by
  unfold execLdxr
  rw [withFrontEnd_baseFault, withFrontEnd_readX, withFrontEnd_memRead]
  cases baseFault s n with
  | some f => rfl
  | none => cases s.memRead (s.readX n) 8 <;> rfl

theorem execStxr_withFrontEnd (b s : State) (t st n : Reg) :
    execStxr t st n (b.withFrontEnd s) = onBackEnd b (execStxr t st n s) := by
  unfold execStxr
  rw [withFrontEnd_baseFault, withFrontEnd_readX, withFrontEnd_readX, withFrontEnd_memWrite, withFrontEnd_mon]
  cases baseFault s n with
  | some f => rfl
  | none =>
    by_cases hm : s.mon = some (s.readX n)
    · simp only [if_pos hm]
      cases s.memWrite (s.readX n) 8 (s.readX t) <;> rfl
    · simp only [if_neg hm]
      rfl

theorem execBr_withFrontEnd (b s : State) (n : Reg) : execBr n (b.withFrontEnd s) = onBackEnd b (execBr n s) := by
  unfold execBr
  rw [withFrontEnd_readX, withFrontEnd_params]
  cases branchTargetFault s.params (s.readX n) <;> rfl

theorem branchIf_withFrontEnd (b s : State) (taken : Bool) (target : Nat) :
    branchIf taken target (b.withFrontEnd s) = onBackEnd b (branchIf taken target s) := by
  cases taken <;> rfl

/-- Every instruction commutes with an exchange of the fields outside the front end. The instructions without a check
write back values that read the front end only. -/
theorem exec_withFrontEnd (b s : State) (i : Instr) : exec i (b.withFrontEnd s) = onBackEnd b (exec i s) := by
  cases i
  case ldur | ldursw | ldurh | ldurb => exact loadRegister_withFrontEnd ..
  case stur | sturw | sturh | sturb => exact storeRegister_withFrontEnd ..
  case ldxr => exact execLdxr_withFrontEnd ..
  case stxr => exact execStxr_withFrontEnd ..
  case br => exact execBr_withFrontEnd ..
  case cbz | cbnz | bEq | bNe | bHs | bLo | bHi | bLs | bGe | bLt | bGt | bLe | bMi | bPl | bVs | bVc =>
    exact branchIf_withFrontEnd ..
  all_goals rfl

theorem executeInstruction_withFrontEnd (b s : State) :
    executeInstruction (b.withFrontEnd s) = onBackEnd b (executeInstruction s) := by
  unfold executeInstruction
  rw [withFrontEnd_err, withFrontEnd_fetched]
  cases s.err with
  | some e => rfl
  | none =>
    cases s.fetched with
    | none => rfl
    | some r => exact exec_withFrontEnd b s r.instr

/-- From states with the same front end `executeInstruction` leads to states with the same front end. -/
theorem SameFrontEnd.executeInstruction {c s u : State} (h : SameFrontEnd c s)
    (hs : Machine.executeInstruction s = .next u) :
    ∃ c', Machine.executeInstruction c = .next c' ∧ SameFrontEnd c' u := by
  obtain ⟨c', hc, _⟩ := executeInstruction_effect c
  refine ⟨c', hc, ?_⟩
  have hx : Machine.executeInstruction s = .next (s.withFrontEnd c') := by
    have := executeInstruction_withFrontEnd s c
    rwa [h.withFrontEnd_eq, hc] at this
  cases hx.symm.trans hs
  exact sameFrontEnd_withFrontEnd s c'

end Sys2Proof.Machine
end

section
/-!
PROOFS. The records in flight through a tick: what each of the four shifts does to them, and the invariant of the
pipelined run (70_reset R323 to R328).
-/

namespace Sys2Proof.Machine

/-- The records in flight but the one in WB, oldest first. -/
def Buffer.behindWB (b : Buffer) : List InFlight :=
  b.slotMEM.toList ++ b.slotEX.toList ++ b.slotID.toList ++ b.slotIF.toList

/-- The buffer whose IF occupant has become a bubble, when `flush` holds (R327). -/
def Buffer.flushIF (b : Buffer) (flush : Bool) : Buffer := { b with slotIF := if flush then none else b.slotIF }

theorem Buffer.inFlight_eq (b : Buffer) : b.inFlight = b.slotWB.toList ++ b.behindWB := by
  simp [Buffer.inFlight, Buffer.behindWB]

theorem Buffer.inFlight_shiftIn (b : Buffer) (e : Option InFlight) :
    (b.shiftIn e).inFlight = b.behindWB ++ e.toList := rfl

theorem Buffer.inFlight_stalled (b : Buffer) : b.stalled.inFlight = b.behindWB := by
  simp [Buffer.inFlight, Buffer.behindWB, Buffer.stalled]

theorem Buffer.fetchIn_eq (b : Buffer) (flush : Bool) (e : InFlight) :
    b.fetchIn flush e = (b.flushIF flush).shiftIn (some e) := rfl

theorem Buffer.behindWB_flushIF_subset (b : Buffer) (flush : Bool) : (b.flushIF flush).behindWB ⊆ b.behindWB := by
  intro p hp
  simp only [Buffer.behindWB, Buffer.flushIF, List.mem_append] at hp ⊢
  cases flush with
  | false => exact hp
  | true => exact hp.imp_right (by simp)

theorem chained_append {a c : Snapshot} {ps qs : List InFlight} :
    Chained a (ps ++ qs) c ↔ ∃ m, Chained a ps m ∧ Chained m qs c := by
  induction ps generalizing a with
  | nil => simp [Chained]
  | cons p ps ih => simp [Chained, ih, and_assoc]

/-- The chain from the snapshot that is visible once the occupant of WB has retired (R328). -/
theorem Chained.retire {vis final : Snapshot} {b : Buffer} (h : Chained vis b.inFlight final) :
    Chained (Machine.retire vis b.slotWB) b.behindWB final := by
  rw [Buffer.inFlight_eq] at h
  cases hw : b.slotWB with
  | none => rwa [hw] at h
  | some o => rw [hw] at h; exact h.2

/-- An entry that begins where the chain ends prolongs it. -/
theorem Chained.snoc {start m : Snapshot} {ps : List InFlight} (h : Chained start ps m) {e : InFlight}
    (he : e.before = m) : Chained start (ps ++ [e]) e.after :=
  chained_append.mpr ⟨m, h, he, rfl⟩

/-- Flushing an IF occupant that changes nothing keeps the chain. -/
theorem Chained.flushIF {start final : Snapshot} {b : Buffer} {flush : Bool} (h : Chained start b.behindWB final)
    (hq : flush = true → ∀ q, b.slotIF = some q → q.before = q.after) :
    Chained start (b.flushIF flush).behindWB final := by
  cases flush with
  | false => exact h
  | true =>
    obtain ⟨m, hm, hl⟩ := chained_append.mp h
    refine chained_append.mpr ⟨m, hm, ?_⟩
    cases hi : b.slotIF with
    | none => rwa [hi] at hl
    | some q =>
      rw [hi] at hl
      obtain ⟨hb, ha⟩ := hl
      exact hb.symm.trans ((hq rfl q hi).trans ha)

/-- After a shift the pipeline registers and the detectors are those of the new buffer. -/
theorem PipeRegs.shiftTo (s : State) (b : Buffer) : PipeRegs (s.shiftTo b) := by constructor <;> rfl

/-- A placeholder changes nothing and is no taken branch (R326). -/
theorem placeholder_eq_some {s : State} {p q : InFlight} (h : placeholder s p = some q) :
    q.before = s.snapshot ∧ q.after = s.snapshot ∧ q.taken = false := by
  simp only [placeholder] at h
  split at h
  · cases h
  · cases h; exact ⟨rfl, rfl, rfl⟩

theorem placeholder_not_taken {s : State} {p q : InFlight} (h : placeholder s p = some q) : q.taken = false :=
  (placeholder_eq_some h).2.2

/-- A pending flush means a taken branch in ID, so the IF occupant to be flushed changes nothing (R326, R340). -/
theorem PipeInv.flushed_unchanging {s : State} (h : PipeInv s) (hf : s.flushNext = true) :
    ∀ q, s.buf.slotIF = some q → q.before = q.after := by
  intro q hq
  rw [h.regs.flushNext, controlHazard_eq_true] at hf
  obtain ⟨p, hp, ht⟩ := hf
  exact (h.placeholder p hp ht q hq).1

/-- An instruction that faults in a tick keeps the pipeline invariant: the tick changed only the error (R342). -/
theorem PipeInv.of_fault {s u : State} (h : PipeInv s) (hu : executeInstruction s = .next u) (he : u.err ≠ none) :
    PipeInv u := by
  have hx := executeInstruction_untouched hu
  obtain ⟨regs, chain, plc⟩ := h
  constructor
  · constructor <;> simp only [hx.buf, hx.ifid, hx.idex, hx.exmem, hx.memwb, hx.stallNext, hx.flushNext, hx.hazCB,
      hx.hazFlag, hx.hazLoad, hx.fwdA, hx.fwdB]
    exacts [regs.ifid, regs.idex, regs.exmem, regs.memwb, regs.hazCB, regs.hazFlag, regs.hazLoad, regs.stallNext,
      regs.flushNext, regs.fwdA, regs.fwdB]
  · rwa [hx.vis, hx.buf, executeInstruction_snapshot_of_err hu he]
  · rwa [hx.buf]

/-- A fetch that executes its instruction keeps the pipeline invariant (R327): the new record leads from the old front end
to the new one, and the record it follows is no taken branch. -/
theorem PipeInv.of_fetch {s u : State} (h : PipeInv s) (hu : executeInstruction s = .next u)
    (ht : ∀ p, s.buf.slotIF = some p → p.taken = false) {e : InFlight} (hb : e.before = s.snapshot)
    (ha : e.after = u.snapshot) : PipeInv (u.shiftTo (s.buf.fetchIn s.flushNext e)) := by
  have hx := executeInstruction_untouched hu
  refine ⟨.shiftTo _ _, ?_, ?_⟩
  · have hc := (h.chain.retire.flushIF h.flushed_unchanging).snoc hb
    rw [ha] at hc
    simpa [Buffer.fetchIn_eq, Buffer.inFlight_shiftIn, hx.vis, hx.buf] using hc
  · intro p hp hpt
    have hold : s.buf.slotIF = some p := by
      simp only [State.shiftTo_buf, Buffer.fetchIn] at hp
      split at hp
      · cases hp
      · exact hp
    rw [ht p hold] at hpt
    cases hpt

/-- Every tick keeps the pipeline invariant, in the order of `clock_cases`: the two ticks that do nothing, a stall, a drain
shift, a placeholder, a fetch. -/
theorem PipeInv.clock {s t : State} (h : PipeInv s) (hs : Machine.clock s = .next t) : PipeInv t := by
  rcases clock_cases s with ⟨_, h'⟩ | ⟨_, _, _, h'⟩ | ⟨_, _, _, h'⟩ | ⟨_, _, _, _, h'⟩ | ⟨_, p, _, _, _, _, _, h'⟩
    | ⟨r, _, _, _, ht, h'⟩
  · cases h'.symm.trans hs; exact h
  · cases h'.symm.trans hs; exact h
  · cases h'.symm.trans hs
    refine ⟨.shiftTo _ _, ?_, h.placeholder⟩
    rw [State.shiftTo_buf, Buffer.inFlight_stalled]
    exact h.chain.retire
  · cases h'.symm.trans hs
    refine ⟨.shiftTo _ _, ?_, fun _ _ _ q hq => by cases hq⟩
    rw [State.shiftTo_buf, Buffer.inFlight_shiftIn]
    simpa using h.chain.retire
  · cases h'.symm.trans hs
    refine ⟨.shiftTo _ _, ?_, fun _ _ _ q hq => ?_⟩
    · rw [State.shiftTo_buf, Buffer.inFlight_shiftIn]
      cases hq : Machine.placeholder s p with
      | none => simpa using h.chain.retire
      | some q =>
        obtain ⟨hb, ha, _⟩ := placeholder_eq_some hq
        have hc := h.chain.retire.snoc hb
        rwa [ha] at hc
    · obtain ⟨hb, ha, hn⟩ := placeholder_eq_some hq
      exact ⟨hb.trans ha.symm, hn⟩
  · obtain ⟨u, hu, ⟨he, hf⟩ | ⟨_, hf⟩⟩ := fetchTick_cases s r
    · cases (h'.trans hf).symm.trans hs
      exact h.of_fault hu (by simpa [Option.isSome_iff_ne_none] using he)
    · cases (h'.trans hf).symm.trans hs
      exact h.of_fetch hu ht rfl rfl

/-- A load starts with the pipeline invariant: five bubbles, and the visible snapshot is the front end's. -/
theorem PipeInv.loaded (l : Launch) (e : Engine) (p : Program) : PipeInv (State.loaded l e p) :=
  ⟨by constructor <;> rfl, rfl, fun _ h => by cases h⟩

/-- Once the buffer is empty the front end is visible. -/
theorem PipeInv.vis_of_empty {s : State} (h : PipeInv s) (hb : s.buf = Buffer.empty) : s.vis = s.snapshot := by
  have hc := h.chain
  rwa [hb] at hc

/-- A pending stall has a record in EX or in MEM (R332 to R335). -/
theorem PipeRegs.stall_occupied {s : State} (h : PipeRegs s) (hs : s.stallNext = true) :
    s.buf.slotEX ≠ none ∨ s.buf.slotMEM ≠ none := by
  by_contra hn
  simp only [not_or, not_not] at hn
  obtain ⟨hex, hmem⟩ := hn
  rw [h.stallNext, h.hazCB, h.hazFlag, h.hazLoad, h.idex, h.exmem, hex, hmem, stageFields_none] at hs
  cases hi : s.ifid with
  | none => simp [hi, compareBranchHazard, flagHazard, loadUseHazard] at hs
  | some f =>
    cases hd : dependence f.src1 <;>
      simp [hi, hd, compareBranchHazard, flagHazard, loadUseHazard, prodDest, setsFlags] at hs

end Sys2Proof.Machine
end

section
/-!
PROOFS. The pipelined run against the single-cycle run: what is in flight or visible is a snapshot of the single-cycle
run, and a bound on the ticks without a fetch (70_reset R343, R345, R346).
-/

namespace Sys2Proof.Machine

/-- One more step at the end of a run. -/
theorem steps_succ_of_steps {j : Nat} {s t u : State} (h : steps j s = .next t) (ht : step t = .next u) :
    steps (j + 1) s = .next u := by
  induction j generalizing s with
  | zero => cases h; simp only [steps, ht]
  | succ j ih =>
    rw [steps] at h ⊢
    cases hs : step s with
    | next a => rw [hs] at h; exact ih h
    | fault f => rw [hs] at h; cases h
    | refused r => rw [hs] at h; cases h

/-- A run that answers a next state makes its first step. -/
theorem steps_succ_eq_next {k : Nat} {s t : State} (h : steps (k + 1) s = .next t) :
    ∃ u, step s = .next u ∧ steps k u = .next t := by
  rw [steps] at h
  cases hs : step s with
  | next u => rw [hs] at h; exact ⟨u, rfl, h⟩
  | fault f => rw [hs] at h; cases h
  | refused r => rw [hs] at h; cases h

/-- A run keeps what the load set. -/
theorem steps_sameLoad {k : Nat} {s t : State} (h : steps k s = .next t) : SameLoad s t := by
  induction k generalizing s with
  | zero => cases h; exact .refl _
  | succ k ih =>
    obtain ⟨u, hu, ht⟩ := steps_succ_eq_next h
    have h1 := step_sameLoad hu
    have h2 := ih ht
    exact ⟨h2.d.trans h1.d, h2.program.trans h1.program, h2.compileErrors.trans h1.compileErrors,
      h2.params.trans h1.params, h2.engine.trans h1.engine⟩

/-- The snapshot is that of the run from `c₀` after at most `j` steps. -/
def SnapshotWithin (c₀ : State) (j : Nat) (snap : Snapshot) : Prop :=
  ∃ i, i ≤ j ∧ ∃ v, steps i c₀ = .next v ∧ snap = v.snapshot

theorem SnapshotWithin.mono {c₀ : State} {j k : Nat} {snap : Snapshot} (h : SnapshotWithin c₀ j snap) (hjk : j ≤ k) :
    SnapshotWithin c₀ k snap := by
  obtain ⟨i, hi, hv⟩ := h
  exact ⟨i, hi.trans hjk, hv⟩

/-- The front end of `s` is the run from `c₀` after `j` steps, and what is visible or will be, once a record in flight
retires, are snapshots of that run. -/
structure FollowsRun (c₀ : State) (j : Nat) (s : State) : Prop where
  frontEnd : ∃ c, steps j c₀ = .next c ∧ SameFrontEnd c s
  visible : SnapshotWithin c₀ j s.vis
  inFlight : ∀ p ∈ s.buf.inFlight, SnapshotWithin c₀ j p.after

/-- The front end's own snapshot is one of the run. -/
theorem FollowsRun.snapshot {c₀ : State} {j : Nat} {s : State} (h : FollowsRun c₀ j s) :
    SnapshotWithin c₀ j s.snapshot := by
  obtain ⟨c, hc, hsame⟩ := h.frontEnd
  exact ⟨j, le_rfl, c, hc, hsame.snapshot⟩

/-- A record behind WB is a record in flight. -/
theorem FollowsRun.behindWB {c₀ : State} {j : Nat} {s : State} (h : FollowsRun c₀ j s) :
    ∀ p ∈ s.buf.behindWB, SnapshotWithin c₀ j p.after := by
  intro p hp
  exact h.inFlight p (by rw [Buffer.inFlight_eq]; exact List.mem_append_right _ hp)

/-- A shift that brings in only snapshots of the run follows the run. -/
theorem FollowsRun.shiftTo {c₀ : State} {j : Nat} {s : State} (h : FollowsRun c₀ j s) {b : Buffer}
    (hb : ∀ p ∈ b.inFlight, SnapshotWithin c₀ j p.after) : FollowsRun c₀ j (s.shiftTo b) := by
  obtain ⟨c, hc, hsame⟩ := h.frontEnd
  refine ⟨⟨c, hc, hsame.shiftTo b⟩, ?_, hb⟩
  rw [State.shiftTo_vis]
  cases hw : s.buf.slotWB with
  | none => exact h.visible
  | some o => exact h.inFlight o (by simp [Buffer.inFlight, hw])

/-- An instruction executed on the front end is the next step of a single-cycle run. -/
theorem FollowsRun.executeInstruction {c₀ : State} {j : Nat} {s u : State} (h : FollowsRun c₀ j s)
    (h₀ : c₀.engine = .singleCycle) (hu : Machine.executeInstruction s = .next u) : FollowsRun c₀ (j + 1) u := by
  obtain ⟨c, hc, hsame⟩ := h.frontEnd
  obtain ⟨c', hc', hsame'⟩ := hsame.executeInstruction hu
  have hstep : step c = .next c' := by rw [step, (steps_sameLoad hc).engine.trans h₀]; exact hc'
  have hx := executeInstruction_untouched hu
  refine ⟨⟨c', steps_succ_of_steps hc hstep, hsame'⟩, ?_, ?_⟩
  · rw [hx.vis]; exact h.visible.mono j.le_succ
  · rw [hx.buf]; exact fun p hp => (h.inFlight p hp).mono j.le_succ

/-- A tick follows the single-cycle run by at most one step: only a fetch, the last of `clock_cases`, makes one. -/
theorem FollowsRun.clock {c₀ : State} {j : Nat} {s t : State} (h : FollowsRun c₀ j s)
    (h₀ : c₀.engine = .singleCycle) (hs : Machine.clock s = .next t) : ∃ j', j' ≤ j + 1 ∧ FollowsRun c₀ j' t := by
  rcases clock_cases s with ⟨_, h'⟩ | ⟨_, _, _, h'⟩ | ⟨_, _, _, h'⟩ | ⟨_, _, _, _, h'⟩ | ⟨_, p, _, _, _, _, _, h'⟩
    | ⟨r, _, _, _, _, h'⟩
  · cases h'.symm.trans hs; exact ⟨j, j.le_succ, h⟩
  · cases h'.symm.trans hs; exact ⟨j, j.le_succ, h⟩
  · cases h'.symm.trans hs
    exact ⟨j, j.le_succ, h.shiftTo (by rw [Buffer.inFlight_stalled]; exact h.behindWB)⟩
  · cases h'.symm.trans hs
    exact ⟨j, j.le_succ, h.shiftTo (by simpa [Buffer.inFlight_shiftIn] using h.behindWB)⟩
  · cases h'.symm.trans hs
    refine ⟨j, j.le_succ, h.shiftTo fun q hq => ?_⟩
    rw [Buffer.inFlight_shiftIn, List.mem_append, Option.mem_toList] at hq
    rcases hq with hq | hq
    · exact h.behindWB q hq
    · rw [(placeholder_eq_some hq).2.1]
      exact h.snapshot
  · obtain ⟨u, hu, ⟨_, hf⟩ | ⟨_, hf⟩⟩ := fetchTick_cases s r
    · cases (h'.trans hf).symm.trans hs
      exact ⟨j + 1, le_rfl, h.executeInstruction h₀ hu⟩
    · cases (h'.trans hf).symm.trans hs
      have hn := h.executeInstruction h₀ hu
      refine ⟨j + 1, le_rfl, hn.shiftTo fun q hq => ?_⟩
      rw [Buffer.fetchIn_eq, Buffer.inFlight_shiftIn, List.mem_append, Option.mem_toList] at hq
      rcases hq with hq | hq
      · exact (h.behindWB q (Buffer.behindWB_flushIF_subset _ _ hq)).mono j.le_succ
      · cases hq
        exact hn.snapshot

/-- The step of a state that was loaded for the pipelined engine is a tick. -/
theorem step_pipelined {s : State} (h : s.engine = .pipelined) : step s = clock s := by rw [step, h]

/-- `k` ticks follow the single-cycle run by at most `k` steps. -/
theorem FollowsRun.steps {c₀ : State} (h₀ : c₀.engine = .singleCycle) {k j : Nat} {s t : State} (h : FollowsRun c₀ j s)
    (he : s.engine = .pipelined) (hs : Machine.steps k s = .next t) : ∃ j', j' ≤ j + k ∧ FollowsRun c₀ j' t := by
  induction k generalizing s j with
  | zero => cases hs; exact ⟨j, le_rfl, h⟩
  | succ k ih =>
    obtain ⟨u, hu, ht⟩ := steps_succ_eq_next hs
    obtain ⟨j₁, hj₁, h₁⟩ := h.clock h₀ (step_pipelined he ▸ hu)
    obtain ⟨j₂, hj₂, h₂⟩ := ih h₁ ((step_sameLoad hu).engine.trans he) ht
    exact ⟨j₂, by omega, h₂⟩

/-- The two loads of one program have the same front end. -/
theorem sameFrontEnd_loaded (l : Launch) (e e' : Engine) (p : Program) :
    SameFrontEnd (State.loaded l e p) (State.loaded l e' p) := by constructor <;> rfl

/-- A pipelined load follows the single-cycle run by no step. -/
theorem FollowsRun.loaded (l : Launch) (p : Program) :
    FollowsRun (State.loaded l .singleCycle p) 0 (State.loaded l .pipelined p) :=
  ⟨⟨_, rfl, sameFrontEnd_loaded ..⟩, ⟨0, le_rfl, _, rfl, rfl⟩, fun _ h => by cases h⟩

/-! ## The ticks without a fetch -/

/-- How many records a slot holds. -/
def occupancy (slot : Option InFlight) : Nat := slot.toList.length

/-- A measure that every tick without a fetch lowers: the distances of the records in flight from the end of WB, and that
of the placeholder to come behind a taken branch in IF. -/
def Buffer.ticksLeft (b : Buffer) : Nat :=
  5 * occupancy (previousTaken b) + 5 * occupancy b.slotIF + 4 * occupancy b.slotID + 3 * occupancy b.slotEX
    + 2 * occupancy b.slotMEM + occupancy b.slotWB

@[simp] theorem occupancy_none : occupancy none = 0 := rfl

@[simp] theorem occupancy_some (p : InFlight) : occupancy (some p) = 1 := rfl

theorem occupancy_eq_zero {slot : Option InFlight} : occupancy slot = 0 ↔ slot = none := by cases slot <;> simp

theorem occupancy_le_one (slot : Option InFlight) : occupancy slot ≤ 1 := by cases slot <;> simp

/-- A stall with a record in EX or MEM lowers the measure. -/
theorem Buffer.ticksLeft_stalled {b : Buffer} (h : b.slotEX ≠ none ∨ b.slotMEM ≠ none) :
    b.stalled.ticksLeft < b.ticksLeft := by
  simp only [ne_eq, ← occupancy_eq_zero] at h
  simp only [Buffer.ticksLeft, Buffer.stalled, previousTaken, occupancy_none]
  omega

/-- A drain shift of a buffer with a record in it lowers the measure. -/
theorem Buffer.ticksLeft_drain {b : Buffer} (h : b ≠ Buffer.empty) : (b.shiftIn none).ticksLeft < b.ticksLeft := by
  have hocc : occupancy b.slotIF + occupancy b.slotID + occupancy b.slotEX + occupancy b.slotMEM
      + occupancy b.slotWB ≠ 0 := by
    intro h0
    obtain ⟨slotIF, slotID, slotEX, slotMEM, slotWB⟩ := b
    simp only [Nat.add_eq_zero_iff, occupancy_eq_zero, and_assoc] at h0
    obtain ⟨rfl, rfl, rfl, rfl, rfl⟩ := h0
    exact h rfl
  simp only [Buffer.ticksLeft, Buffer.shiftIn, previousTaken, occupancy_none]
  omega

/-- A placeholder that enters behind a taken branch lowers the measure. -/
theorem Buffer.ticksLeft_placeholder {b : Buffer} {p : InFlight} {e : Option InFlight} (hp : b.slotIF = some p)
    (ht : p.taken = true) (he : ∀ q, e = some q → q.taken = false) : (b.shiftIn e).ticksLeft < b.ticksLeft := by
  have hold : previousTaken b = some p := by simp [previousTaken, hp, ht]
  have hnew : previousTaken (b.shiftIn e) = none := by
    cases e with
    | none => rfl
    | some q => simp [previousTaken, Buffer.shiftIn, he q rfl]
  have hle := occupancy_le_one e
  simp only [Buffer.ticksLeft, hold, hnew, hp, occupancy_some, occupancy_none]
  simp only [Buffer.shiftIn, hp, occupancy_some]
  omega

/-! ## The end of the run -/

/-- `run` stops at once where the run has ended or faulted. -/
theorem run_of_halted {s : State} (h : s.halted = true) (fuel : Nat) : run fuel s = .next s := by
  cases fuel with
  | zero => rfl
  | succ fuel => rw [run, if_pos h]

theorem fetched_eq_none_iff {s : State} : s.fetched = none ↔ s.program.records.length ≤ s.idx :=
  List.getElem?_eq_none_iff

/-- A run that ends successfully executes the instruction it stands at, with fuel to spare and without a fault. -/
theorem run_succeeded_step {fuel : Nat} {c c' u : State} {r : Record} (hr : run fuel c = .next c') (hs : c'.succeeded)
    (he : c.err = none) (hf : c.fetched = some r) (hu : executeInstruction c = .next u) :
    ∃ n, fuel = n + 1 ∧ run n u = .next c' ∧ u.err = none := by
  have hlt : ¬ c.program.records.length ≤ c.idx := fun hle => by rw [fetched_eq_none_iff.mpr hle] at hf; cases hf
  cases fuel with
  | zero => cases hr; exact absurd hs.2 hlt
  | succ n =>
    have hn : c.halted = false := by simp [State.halted, he, hlt]
    have hrun : run n u = .next c' := by
      rw [run, hn, hu] at hr
      exact hr
    refine ⟨n, rfl, hrun, ?_⟩
    cases hk : u.err with
    | none => rfl
    | some e =>
      rw [run_of_halted (by simp [State.halted, hk])] at hrun
      cases hrun
      exact absurd hs.1 (by simp [hk])

/-- `s` runs to a drained pipeline with the front end of `c` and that front end visible. -/
def DrainsTo (c s : State) : Prop :=
  ∃ k t, steps k s = .next t ∧ t.buf = Buffer.empty ∧ t.vis = c.snapshot ∧ SameFrontEnd c t

theorem DrainsTo.of_step {c s t : State} (hs : step s = .next t) (h : DrainsTo c t) : DrainsTo c s := by
  obtain ⟨k, u, hk, hu⟩ := h
  exact ⟨k + 1, u, by rw [steps, hs]; exact hk, hu⟩

/-- From a pipelined state with the front end of a single-cycle state whose run succeeds, the pipelined run drains to the
result of that run: each tick uses up fuel by a fetch, or lowers `Buffer.ticksLeft`. -/
theorem drainsTo_of_run (fuel : Nat) (c c' s : State) (hr : run fuel c = .next c') (hok : c'.succeeded)
    (hsame : SameFrontEnd c s) (hinv : PipeInv s) (heng : s.engine = .pipelined) : DrainsTo c' s := by
  have hstep := step_pipelined heng
  have hnext : ∀ {t}, clock s = .next t → step s = .next t ∧ PipeInv t ∧ t.engine = .pipelined := fun ht =>
    ⟨hstep.trans ht, hinv.clock ht, (step_sameLoad (hstep.trans ht)).engine.trans heng⟩
  have hshift : ∀ b, clock s = .next (s.shiftTo b) → b.ticksLeft < s.buf.ticksLeft → DrainsTo c' s := by
    intro b hb hlt
    obtain ⟨hs, hi, hg⟩ := hnext hb
    exact .of_step hs (drainsTo_of_run fuel c c' _ hr hok (hsame.shiftTo b) hi hg)
  rcases clock_cases s with ⟨he, _⟩ | ⟨_, hf, hb, _⟩ | ⟨_, hst, _, h'⟩ | ⟨_, _, _, hb, h'⟩
    | ⟨_, p, _, _, _, hp, ht, h'⟩ | ⟨r, he, _, hf, _, h'⟩
  · rw [hsame.err] at he
    rw [run_of_halted (by simp [State.halted, he])] at hr
    cases hr
    exact absurd hok.1 (by simpa [Option.isSome_iff_ne_none] using he)
  · rw [hsame.fetched, fetched_eq_none_iff] at hf
    rw [run_of_halted (by simp [State.halted, hf])] at hr
    cases hr
    exact ⟨0, s, rfl, hb, (hinv.vis_of_empty hb).trans hsame.snapshot, hsame⟩
  · exact hshift _ h' (Buffer.ticksLeft_stalled (hinv.regs.stall_occupied hst))
  · exact hshift _ h' (Buffer.ticksLeft_drain hb)
  · exact hshift _ h' (Buffer.ticksLeft_placeholder hp ht fun q hq => placeholder_not_taken hq)
  · obtain ⟨u, hu, htick⟩ := fetchTick_cases s r
    obtain ⟨v, hv, hsame'⟩ := hsame.executeInstruction hu
    obtain ⟨n, hn, hrun, herr⟩ := run_succeeded_step hr hok (hsame.err ▸ he) (hsame.fetched ▸ hf) hv
    rcases htick with ⟨hbad, _⟩ | ⟨_, htick⟩
    · rw [hsame'.err, herr] at hbad; cases hbad
    · obtain ⟨hs, hi, hg⟩ := hnext (h'.trans htick)
      exact .of_step hs (drainsTo_of_run n v c' _ hrun hok (hsame'.shiftTo _) hi hg)
termination_by (fuel, s.buf.ticksLeft)

end Sys2Proof.Machine
end

section
/-!
PROOFS. The registers of a load, and what a legal launch is (10_state R31, 00_scope R6).
-/

namespace Sys2Proof.Machine

/-- The stack pointer of a load is the launch's (R31). -/
theorem readX_loaded_sp (l : Launch) (e : Engine) (p : Program) : (State.loaded l e p).readX SP = l.spReset := by
  have hne : SP ≠ XZR := by decide
  simp [State.readX, State.loaded, initialRegisters, hne]

/-- Every register of a load but 28 and 31 is the launch's (R31). -/
theorem readX_loaded_of_ne (l : Launch) (e : Engine) (p : Program) {r : Reg} (hs : r ≠ SP) (hz : r ≠ XZR) :
    (State.loaded l e p).readX r = l.xReset[r] := by
  have h28 : 28 ≠ r.val := fun h => hs (Fin.ext h.symm)
  have h31 : 31 ≠ r.val := fun h => hz (Fin.ext h.symm)
  simp [State.readX, State.loaded, initialRegisters, hz, Vector.getElem_set_ne, h28, h31]

/-- A legal launch, constraint by constraint (R6, R302, log 3). -/
theorem launch_legal_iff (l : Launch) (N : Nat) : l.legal N = true ↔ l.params.textBase.toNat % 4 = 0
    ∧ l.params.textBase.toNat + 4 * N ≤ l.params.textLimit.toNat
    ∧ l.params.textBase.toNat < l.params.textLimit.toNat ∧ l.params.textLimit.toNat < 2 ^ 63
    ∧ l.params.dynDataBase.toNat < l.params.stackBase.toNat ∧ l.params.stackBase.toNat ≤ 2 ^ 63
    ∧ l.spReset.toNat % 16 = 0 ∧ Memory.wf l.memInit = true := by
  simp only [Launch.legal, Params.legal, Bool.and_eq_true, decide_eq_true_eq, and_assoc]

end Sys2Proof.Machine
end

section
/-!
PROOFS. The obligations of 00_scope.
-/

namespace Sys2Proof.Machine

/-- Settles O33: every step keeps what only a load sets. -/
theorem noStepWritesTheFloatFileOrTheParameters : Obligations.NoStepWritesTheFloatFileOrTheParameters := by
  intro s t h
  obtain ⟨hd, _, hce, hparams, hengine⟩ := step_sameLoad h
  exact ⟨fun r => by simp only [State.readD, hd], hparams, hengine, hce⟩

/-- Settles O56, by induction on the ticks with the invariant `FollowsRun`. -/
theorem pipelinedRunsFollowTheSingleCycleRun : Obligations.PipelinedRunsFollowTheSingleCycleRun := by
  intro l p k s h
  obtain ⟨j, hj, hfollows⟩ := (FollowsRun.loaded l p).steps rfl rfl h
  obtain ⟨c, hc, hsame⟩ := hfollows.frontEnd
  exact ⟨j, by omega, c, hc, hsame, hfollows.visible⟩

/-- Settles O57: the pipelined run from the load drains to the result of the successful run. -/
theorem aSuccessfulRunDrainsToTheSameResult : Obligations.ASuccessfulRunDrainsToTheSameResult := by
  intro l p fuel c hrun hok
  exact drainsTo_of_run fuel _ c _ hrun hok (sameFrontEnd_loaded ..) (.loaded ..) rfl

/-- Settles O2, from the registers of a load and the constraints of a legal launch; every other field of the load is given
by `State.loaded` itself. -/
theorem loadEstablishesTheResetState : Obligations.LoadEstablishesTheResetState := by
  intro l e p
  refine ⟨fun hl => ⟨State.loaded l e p, by rw [loadProgram, if_pos hl], readX_loaded_sp l e p, rfl,
    fun r => readX_loaded_of_ne l e p, ?_⟩, fun hl => by rw [loadProgram, hl]; rfl, launch_legal_iff l⟩
  exact ⟨fun _ => rfl, fun _ => rfl, rfl, rfl, rfl, rfl, rfl, rfl, rfl, rfl, rfl, rfl, rfl, rfl, rfl, rfl, rfl, rfl,
    rfl, rfl, rfl, rfl, rfl, rfl, rfl, rfl⟩

end Sys2Proof.Machine
end

section
/-!
PROOFS. What an instruction can change, read off its effect: registers, flags, memory, control, and the exclusive monitor
(10_state R12 R18 R20, 30_encoding R112, 45_exclusive R223).
-/

namespace Sys2Proof.Machine

/-- The control word of the instruction asserts one of the three branch signals (30_encoding R111 R112). -/
def signalsBranch (i : Instr) : Prop :=
  (controlOf i.mnemonic).uncondBranch = .on ∨ (controlOf i.mnemonic).flagBranch = .on
    ∨ (controlOf i.mnemonic).zeroBranch = .on

/-- FlagWrite is asserted exactly for the flag-setting instructions (30_encoding R112). -/
theorem flagWrite_iff_setsFlagsOf (i : Instr) : (controlOf i.mnemonic).flagWrite = .on ↔ setsFlagsOf i := by
  cases i <;> simp [setsFlagsOf, controlOf, Instr.mnemonic]

/-- RegWrite is asserted exactly for the instructions with a destination field (30_encoding R112, 70_reset R330). -/
theorem regWrite_iff_dest (i : Instr) :
    (controlOf i.mnemonic).regWrite = .on ↔ (registerFields i).dest.isSome = true := by
  cases i <;> simp [registerFields, controlOf, Instr.mnemonic]

/-- An ordinary store asserts MemWrite (30_encoding R112). -/
theorem ordinaryStore_memWrite {i : Instr} {n : Reg} {off : Int} {size : Nat} (h : ordinaryStore i n off size) :
    (controlOf i.mnemonic).memWrite = .on := by
  rcases h with ⟨_, rfl, _⟩ | ⟨_, rfl, _⟩ | ⟨_, rfl, _⟩ | ⟨_, rfl, _⟩ <;> rfl

/-- Every register but the destination field keeps its value (10_state R12, 70_reset R330). -/
theorem Effect.readX_of_not_dest {i : Instr} {s t : State} (h : Effect i s t) {r : Reg}
    (hr : (registerFields i).dest ≠ some r) : t.readX r = s.readX r := by
  have hwrite : ∀ (u : State) (d : Reg) (v : Word), (registerFields i).dest = some d →
      (u.writeX d v).readX r = u.readX r := fun u d v hd =>
    u.readX_writeX_of_ne d r v fun hrd => hr (hrd ▸ hd)
  cases h with
  | register d v hd => exact hwrite _ _ _ hd
  | flagged d v f hd => exact hwrite _ _ _ hd
  | link target hi => exact hwrite _ _ _ (hi ▸ rfl)
  | loadExclusive q n v hi => exact hwrite _ _ _ (hi ▸ rfl)
  | storeExclusive q st n hi => exact hwrite _ _ _ (hi ▸ rfl)
  | storeFailed q st n hi => exact hwrite _ _ _ (hi ▸ rfl)
  | _ => rfl

/-- Only a flag-setting instruction changes the flags (10_state R18). -/
theorem Effect.flags_of_not_setter {i : Instr} {s t : State} (h : Effect i s t) (hf : ¬setsFlagsOf i) :
    t.flags = s.flags := by
  cases h with
  | flagged _ _ _ _ hs => exact absurd hs hf
  | flags _ hs => exact absurd hs hf
  | _ => rfl

/-- The memory after an instruction: as before, or with bytes stored by an instruction that asserts MemWrite. -/
theorem Effect.mem_cases {i : Instr} {s t : State} (h : Effect i s t) :
    t.mem = s.mem ∨ (controlOf i.mnemonic).memWrite = .on ∧ ∃ a bs, t.mem = s.mem.storeBytes a bs := by
  cases h with
  | store n off size v ho => exact .inr ⟨ordinaryStore_memWrite ho, _, _, rfl⟩
  | storeExclusive q st n hi => exact .inr ⟨hi ▸ rfl, _, _, rfl⟩
  | _ => exact .inl rfl

/-- Every instruction keeps the memory canonical (20_memory R40). -/
theorem Effect.mem_wf {i : Instr} {s t : State} (h : Effect i s t) (hw : Memory.wf s.mem = true) :
    Memory.wf t.mem = true := by
  rcases h.mem_cases with hm | ⟨_, a, bs, hm⟩
  · rwa [hm]
  · rw [hm]
    exact Memory.wf_storeBytes bs a hw

/-- A register write keeps the storage behind register 31 at 0 (10_state R12). -/
theorem State.writeX_zeroRegister {s : State} (d : Reg) (v : Word) (h : s.x[31] = 0#64) :
    (s.writeX d v).x[31] = 0#64 := by
  by_cases hd : d = XZR
  · simp [hd, h]
  · have h31 : (d : Nat) ≠ 31 := fun he => hd (Fin.ext he)
    simp [hd, h31, h]

/-- Every instruction keeps the storage behind register 31 at 0 (10_state R12). -/
theorem Effect.zeroRegister {i : Instr} {s t : State} (h : Effect i s t) (hz : s.x[31] = 0#64) : t.x[31] = 0#64 := by
  cases h with
  | register | flagged | link | loadExclusive | storeExclusive | storeFailed => exact State.writeX_zeroRegister _ _ hz
  | _ => exact hz

/-- Where control goes: a fault is taken, the next index follows with no branch taken, or the control word signals a
branch (00_scope R8, 10_state R21). -/
theorem Effect.control_cases {i : Instr} {s t : State} (h : Effect i s t) :
    (∃ f, t = s.takeFault f) ∨ (t.idx = s.idx + 1 ∧ t.branchTaken = false) ∨ signalsBranch i := by
  cases h with
  | fault f => exact .inl ⟨f, rfl⟩
  | jump _ _ hb => exact .inr (.inr hb)
  | link _ hi => exact .inr (.inr (.inl (hi ▸ rfl)))
  | _ => exact .inr (.inl ⟨rfl, rfl⟩)

end Sys2Proof.Machine
end

section
/-!
PROOFS. The core invariant: where an instruction leaves the index, and that instructions and shifts keep the invariant
(20_memory R40, 10_state R12 R19 R30).
-/

namespace Sys2Proof.Machine

/-- A branch to a label leads to the label or to the next index. -/
theorem branchIf_idx {taken : Bool} {target : Nat} {s t : State} (h : branchIf taken target s = .next t) :
    t.idx = s.idx + 1 ∨ target = t.idx := by
  rcases branchIf_cases taken target s with ⟨_, h'⟩ | ⟨_, h'⟩
  · cases h'.symm.trans h; exact .inr rfl
  · cases h'.symm.trans h; exact .inl rfl

/-- An address that BR accepts has its index in the text segment (46_branch R234). -/
theorem branchTarget_in_text {p : Params} {a : Word} (h : branchTargetFault p a = none) :
    p.textBase.toNat + 4 * indexOfAddress p a ≤ p.textLimit.toNat := by
  obtain ⟨_, hlo, hhi⟩ := (branchTargetFault_eq_none p a).mp h
  rw [indexOfAddress_eq hlo]
  omega

/-- Where an instruction leaves the index: it keeps it, falls through, goes to its label, or to an index in the text
segment. -/
theorem exec_idx_cases {i : Instr} {s t : State} (h : exec i s = .next t) :
    t.idx = s.idx ∨ t.idx = s.idx + 1 ∨ i.target? = some t.idx
      ∨ s.params.textBase.toNat + 4 * t.idx ≤ s.params.textLimit.toNat := by
  rcases (exec_inversion h).control_cases with ⟨f, rfl⟩ | ⟨hi, _⟩ | hb
  · exact .inl rfl
  · exact .inr (.inl hi)
  · cases i
    case b | bl => cases h; exact .inr (.inr (.inl rfl))
    case br n =>
      rcases execBr_cases n s with ⟨f, _, h'⟩ | ⟨hok, h'⟩
      · cases h'.symm.trans h
        exact .inl rfl
      · cases h'.symm.trans h
        exact .inr (.inr (.inr (branchTarget_in_text hok)))
    case cbz | cbnz | bEq | bNe | bHs | bLo | bHi | bLs | bGe | bLt | bGt | bLe | bMi | bPl | bVs | bVc =>
      exact .inr ((branchIf_idx h).imp_right fun ht => .inl (congrArg some ht))
    all_goals simp [signalsBranch, controlOf, Instr.mnemonic] at hb

/-- A label of a record of a well-formed program is an index of the program (30_encoding R77). -/
theorem target_lt_of_programWf {p : Program} {r : Record} {k : Nat} (hp : Program.wf p = true) (hr : r ∈ p.records)
    (hk : r.instr.target? = some k) : k < p.records.length := by
  have hwf := List.all_eq_true.mp hp r hr
  simp only [Record.wf, Instr.wf, Instr.targetOk, hk, Bool.and_eq_true, decide_eq_true_eq] at hwf
  obtain ⟨⟨_, hlt⟩, _⟩ := hwf
  exact hlt

/-- A fetched record is one of the program's, and its index is inside the program. -/
theorem State.fetched_mem {s : State} {r : Record} (h : s.fetched = some r) :
    r ∈ s.program.records ∧ s.idx < s.program.records.length := by
  obtain ⟨hlt, _⟩ := List.getElem?_eq_some_iff.mp h
  exact ⟨List.mem_of_getElem? h, hlt⟩

/-- A legal address map holds the program in the text segment (00_scope R6). -/
theorem text_of_paramsLegal {p : Params} {N : Nat} (h : p.legal N = true) :
    p.textBase.toNat + 4 * N ≤ p.textLimit.toNat := by
  simp only [Params.legal, Bool.and_eq_true, decide_eq_true_eq, and_assoc] at h
  obtain ⟨_, htext, _⟩ := h
  exact htext

/-- Executing a record of the program at the index keeps the core invariant. -/
theorem CoreInv.exec {s t : State} {r : Record} (h : CoreInv s) (hr : s.fetched = some r)
    (ht : Machine.exec r.instr s = .next t) : CoreInv t := by
  have hx := exec_inversion ht
  have hprogram := hx.untouched.program
  have hparams := hx.untouched.params
  obtain ⟨hmem, hlt⟩ := State.fetched_mem hr
  have htext := text_of_paramsLegal h.map
  refine ⟨hx.mem_wf h.memory, hx.zeroRegister h.zeroRegister, ?_, hprogram ▸ h.program, ?_⟩
  · rw [hparams, hprogram]
    exact h.map
  · rw [hparams]
    rcases exec_idx_cases ht with hi | hi | hi | hi
    · rw [hi]
      exact h.index
    · omega
    · have := target_lt_of_programWf h.program hmem hi
      omega
    · exact hi

/-- A call of `executeInstruction` keeps the core invariant. -/
theorem CoreInv.executeInstruction {s t : State} (h : CoreInv s) (ht : Machine.executeInstruction s = .next t) :
    CoreInv t := by
  rcases executeInstruction_cases s with ⟨_, h'⟩ | ⟨_, _, h'⟩ | ⟨r, _, hr, h'⟩
  · cases h'.symm.trans ht; exact h
  · cases h'.symm.trans ht; exact h
  · exact h.exec hr (h'.symm.trans ht)

/-- A shift of the buffer keeps the core invariant: it touches none of its fields. -/
theorem CoreInv.shiftTo {s : State} (h : CoreInv s) (b : Buffer) : CoreInv (s.shiftTo b) :=
  ⟨h.memory, h.zeroRegister, h.map, h.program, h.index⟩

/-- A tick does nothing, shifts the buffer, or executes one instruction before it shifts. -/
theorem CoreInv.clock {s t : State} (h : CoreInv s) (ht : Machine.clock s = .next t) : CoreInv t := by
  rcases clock_cases s with ⟨_, h'⟩ | ⟨_, _, _, h'⟩ | ⟨_, _, _, h'⟩ | ⟨_, _, _, _, h'⟩ | ⟨_, _, _, _, _, _, _, h'⟩
    | ⟨r, _, _, _, _, h'⟩
  · cases h'.symm.trans ht; exact h
  · cases h'.symm.trans ht; exact h
  · cases h'.symm.trans ht; exact h.shiftTo _
  · cases h'.symm.trans ht; exact h.shiftTo _
  · cases h'.symm.trans ht; exact h.shiftTo _
  · obtain ⟨u, hu, ⟨_, hf⟩ | ⟨_, hf⟩⟩ := fetchTick_cases s r
    · cases (h'.trans hf).symm.trans ht; exact h.executeInstruction hu
    · cases (h'.trans hf).symm.trans ht; exact (h.executeInstruction hu).shiftTo _

/-- A legal load of a well-formed program starts with the core invariant (10_state R31, 70_reset R302). -/
theorem CoreInv.loaded {l : Launch} {p : Program} (e : Engine) (hl : l.legal p.records.length = true)
    (hp : Program.wf p = true) : CoreInv (State.loaded l e p) := by
  have hparts := hl
  simp only [Launch.legal, Bool.and_eq_true] at hparts
  obtain ⟨⟨hmap, _⟩, hmem⟩ := hparts
  refine ⟨hmem, by simp [State.loaded, initialRegisters], hmap, hp, ?_⟩
  have := text_of_paramsLegal hmap
  simp only [State.loaded]
  omega

end Sys2Proof.Machine
end

section
/-!
PROOFS. The order of float patterns: the value of a pattern rises with its sign-and-magnitude reading (47_fp_compare R260
R261).
-/

namespace Sys2Proof.Machine

/-- The magnitude of a pattern without its sign bit, whatever the width of the exponent field. -/
def patternMagnitude (f p : Nat) : Nat :=
  if p / 2 ^ f = 0 then p % 2 ^ f else (2 ^ f + p % 2 ^ f) * 2 ^ (p / 2 ^ f - 1)

theorem patternMagnitude_zero (f : Nat) : patternMagnitude f 0 = 0 := by simp [patternMagnitude]

/-- The magnitude reads only the bits below the sign. -/
theorem fpMagnitude_eq (e f v : Nat) : fpMagnitude e f v = patternMagnitude f (v % 2 ^ (e + f)) := by
  have hexp : v % 2 ^ (e + f) / 2 ^ f = v / 2 ^ f % 2 ^ e := by
    rw [Nat.add_comm, Nat.pow_add, Nat.mod_mul_right_div_self]
  have hfrac : v % 2 ^ (e + f) % 2 ^ f = v % 2 ^ f := Nat.mod_mod_of_dvd v (Nat.pow_dvd_pow 2 (Nat.le_add_left f e))
  simp only [fpMagnitude, patternMagnitude, hexp, hfrac]

/-- A magnitude lies below every magnitude of a greater exponent field. -/
theorem patternMagnitude_lt (f p : Nat) : patternMagnitude f p < 2 ^ f * 2 ^ (p / 2 ^ f) := by
  have hfrac : p % 2 ^ f < 2 ^ f := Nat.mod_lt p (Nat.two_pow_pos f)
  unfold patternMagnitude
  split
  case isTrue h => simpa [h] using hfrac
  case isFalse h =>
    calc (2 ^ f + p % 2 ^ f) * 2 ^ (p / 2 ^ f - 1)
        < (2 ^ f * 2) * 2 ^ (p / 2 ^ f - 1) := Nat.mul_lt_mul_of_pos_right (by omega) (Nat.two_pow_pos _)
      _ = 2 ^ f * 2 ^ (p / 2 ^ f) := by rw [Nat.mul_assoc, mul_pow_sub_one h]

/-- A magnitude with an exponent field above 0 is at least the power the field stands for. -/
theorem le_patternMagnitude {f p : Nat} (h : p / 2 ^ f ≠ 0) : 2 ^ f * 2 ^ (p / 2 ^ f - 1) ≤ patternMagnitude f p := by
  rw [patternMagnitude, if_neg h]
  exact Nat.mul_le_mul_right _ (Nat.le_add_right _ _)

/-- Magnitudes rise with their patterns: within one exponent field with the fraction, else with the exponent. -/
theorem patternMagnitude_strictMono (f : Nat) : StrictMono (patternMagnitude f) := by
  intro p q hpq
  rcases (Nat.div_le_div_right hpq.le : p / 2 ^ f ≤ q / 2 ^ f).eq_or_lt with heq | hlt
  · have hfrac : p % 2 ^ f < q % 2 ^ f := by
      have hp := Nat.div_add_mod p (2 ^ f)
      have hq := Nat.div_add_mod q (2 ^ f)
      rw [heq] at hp
      omega
    simp only [patternMagnitude, heq]
    split
    · exact hfrac
    · exact Nat.mul_lt_mul_of_pos_right (by omega) (Nat.two_pow_pos _)
  · calc patternMagnitude f p < 2 ^ f * 2 ^ (p / 2 ^ f) := patternMagnitude_lt f p
      _ ≤ 2 ^ f * 2 ^ (q / 2 ^ f - 1) := Nat.mul_le_mul_left _ (Nat.pow_le_pow_right (by omega) (by omega))
      _ ≤ patternMagnitude f q := le_patternMagnitude (Nat.ne_zero_of_lt hlt)

/-- The integer of a sign and a magnitude. -/
def signedMagnitude (negative : Bool) (m : Nat) : Int := if negative then -(m : Int) else m

/-- Mapping magnitudes by a rising function that keeps 0 keeps the order of signed magnitudes. -/
theorem signedMagnitude_lt_iff {g : Nat → Nat} (hg : StrictMono g) (h0 : g 0 = 0) (a b : Bool) (m n : Nat) :
    signedMagnitude a (g m) < signedMagnitude b (g n) ↔ signedMagnitude a m < signedMagnitude b n := by
  have hpos : ∀ k, 0 < g k ↔ 0 < k := fun k => by simpa [h0] using hg.lt_iff_lt (a := 0) (b := k)
  have hmn := hg.lt_iff_lt (a := m) (b := n)
  have hnm := hg.lt_iff_lt (a := n) (b := m)
  have hm := hpos m
  have hn := hpos n
  cases a <;> cases b <;> simp only [signedMagnitude, if_true, Bool.false_eq_true, if_false] <;> omega

/-- The sign-and-magnitude reading of a pattern of a format with `e` exponent and `f` fraction bits. -/
def fpOrder (e f v : Nat) : Int := signedMagnitude (decide (v / 2 ^ (e + f) % 2 = 1)) (v % 2 ^ (e + f))

/-- Values are ordered as the sign-and-magnitude readings of their patterns (R261). -/
theorem fpValue_lt_iff (e f x y : Nat) : fpValue e f x < fpValue e f y ↔ fpOrder e f x < fpOrder e f y := by
  have hvalue : ∀ v, fpValue e f v
      = signedMagnitude (decide (v / 2 ^ (e + f) % 2 = 1)) (patternMagnitude f (v % 2 ^ (e + f))) := by
    intro v
    simp [fpValue, fpMagnitude_eq, signedMagnitude]
  rw [hvalue, hvalue]
  exact signedMagnitude_lt_iff (patternMagnitude_strictMono f) (patternMagnitude_zero f) ..

/-- The compare of any format sets the flags by the order of its patterns (R261). -/
theorem fCmpFlags_compareFlags (e f x y : Nat) :
    CompareFlags (fpIsNaN e f x = true ∨ fpIsNaN e f y = true) (fpOrder e f x) (fpOrder e f y) (fCmpFlags e f x y) := by
  have hxy := fpValue_lt_iff e f x y
  have hyx := fpValue_lt_iff e f y x
  rw [← Bool.or_eq_true]
  unfold fCmpFlags
  constructor
  case whenUnordered => intro h; rw [if_pos h]
  case whenEqual => intro h heq; rw [if_neg h, if_pos (by omega)]
  case whenLess => intro h hlt; rw [if_neg h, if_neg (by omega), if_pos (by omega)]
  case whenGreater => intro h hgt; rw [if_neg h, if_neg (by omega), if_neg (by omega)]

/-- The NaN patterns of binary64 (R260). -/
theorem isNaN64_iff (v : Word) : isNaN64 v ↔ fpIsNaN 11 52 v.toNat = true := by
  simp [isNaN64, fpIsNaN, BitVec.toNat_eq, Nat.shiftRight_eq_div_pow]

/-- The NaN patterns of binary32 (R260). -/
theorem isNaN32_iff (v : BitVec 32) : isNaN32 v ↔ fpIsNaN 8 23 v.toNat = true := by
  simp [isNaN32, fpIsNaN, BitVec.toNat_eq, Nat.shiftRight_eq_div_pow]

/-- The binary64 reading is that of the format with 11 exponent and 52 fraction bits. -/
theorem order64_eq (v : Word) : order64 v = fpOrder 11 52 v.toNat := by
  have hsign : v.msb = decide (v.toNat / 2 ^ 63 % 2 = 1) := by
    have := v.isLt
    rw [BitVec.msb_eq_decide, decide_eq_decide]
    omega
  rw [order64, fpOrder, signedMagnitude, hsign]

/-- The binary32 reading is that of the format with 8 exponent and 23 fraction bits. -/
theorem order32_eq (v : BitVec 32) : order32 v = fpOrder 8 23 v.toNat := by
  have hsign : v.msb = decide (v.toNat / 2 ^ 31 % 2 = 1) := by
    have := v.isLt
    rw [BitVec.msb_eq_decide, decide_eq_decide]
    omega
  rw [order32, fpOrder, signedMagnitude, hsign]

/-- The binary64 compare sets the flags by the IEEE order (R261). -/
theorem fCmpDouble_compareFlags (x y : Word) :
    CompareFlags (isNaN64 x ∨ isNaN64 y) (order64 x) (order64 y) (fCmpDouble x y) := by
  rw [isNaN64_iff, isNaN64_iff, order64_eq, order64_eq]
  exact fCmpFlags_compareFlags ..

/-- The binary32 compare sets the flags by the IEEE order (R261). -/
theorem fCmpSingle_compareFlags (x y : BitVec 32) :
    CompareFlags (isNaN32 x ∨ isNaN32 y) (order32 x) (order32 y) (fCmpSingle x y) := by
  rw [isNaN32_iff, isNaN32_iff, order32_eq, order32_eq]
  exact fCmpFlags_compareFlags ..

/-- The S view is the low half of the D register (10_state R16). -/
theorem State.readS_eq (s : State) (n : FReg) : s.readS n = (s.readD n).setWidth 32 :=
  (BitVec.setWidth_eq_extractLsb' (by omega)).symm

end Sys2Proof.Machine
end

section
/-!
PROOFS. The flags flow into B.cond only: every other instruction commutes with a change of the flags (10_state R18).
-/

namespace Sys2Proof.Machine

/-- An answer with other flags in its next state. -/
def answerSetFlags (f : Flags) : Result → Result
  | .next t => .next (t.setFlags f)
  | .fault x => .fault x
  | .refused r => .refused r

theorem memRead_setFlags (s : State) (f : Flags) (a : Word) (n : Nat) : (s.setFlags f).memRead a n = s.memRead a n := rfl

theorem memWrite_setFlags (s : State) (f : Flags) (a : Word) (n : Nat) (v : Word) :
    (s.setFlags f).memWrite a n v = (s.memWrite a n v).map (·.setFlags f) := by
  cases h : checkRange s.params a n with
  | none => rw [State.memWrite_of_range v h, State.memWrite_of_range (s := s.setFlags f) v h]; rfl
  | some x => rw [State.memWrite_of_fault v h, State.memWrite_of_fault (s := s.setFlags f) v h]; rfl

theorem baseFault_setFlags (s : State) (f : Flags) (n : Reg) : baseFault (s.setFlags f) n = baseFault s n := rfl

theorem effectiveAddress_setFlags (s : State) (f : Flags) (n : Reg) (off : Int) :
    effectiveAddress (s.setFlags f) n off = effectiveAddress s n off := rfl

theorem loadRegister_setFlags (f : Flags) (t n : Reg) (off : Int) (size : Nat) (ext : Word → Word) (s : State) :
    loadRegister t n off size ext (s.setFlags f) = answerSetFlags f (loadRegister t n off size ext s) := by
  unfold loadRegister
  rw [baseFault_setFlags, effectiveAddress_setFlags, memRead_setFlags]
  cases baseFault s n with
  | some x => rfl
  | none => cases s.memRead (effectiveAddress s n off) size <;> rfl

theorem storeRegister_setFlags (f : Flags) (t n : Reg) (off : Int) (size : Nat) (s : State) :
    storeRegister t n off size (s.setFlags f) = answerSetFlags f (storeRegister t n off size s) := by
  unfold storeRegister
  rw [baseFault_setFlags, effectiveAddress_setFlags, State.setFlags_readX, memWrite_setFlags]
  cases baseFault s n with
  | some x => rfl
  | none => cases s.memWrite (effectiveAddress s n off) size (s.readX t) <;> rfl

theorem execLdxr_setFlags (f : Flags) (t n : Reg) (s : State) :
    execLdxr t n (s.setFlags f) = answerSetFlags f (execLdxr t n s) := by
  unfold execLdxr
  rw [baseFault_setFlags, State.setFlags_readX, memRead_setFlags]
  cases baseFault s n with
  | some x => rfl
  | none => cases s.memRead (s.readX n) 8 <;> rfl

theorem execStxr_setFlags (f : Flags) (t st n : Reg) (s : State) :
    execStxr t st n (s.setFlags f) = answerSetFlags f (execStxr t st n s) := by
  unfold execStxr
  rw [baseFault_setFlags, State.setFlags_readX, State.setFlags_readX, memWrite_setFlags, State.setFlags_mon]
  cases baseFault s n with
  | some x => rfl
  | none =>
    by_cases hm : s.mon = some (s.readX n)
    · simp only [if_pos hm]
      cases s.memWrite (s.readX n) 8 (s.readX t) <;> rfl
    · simp only [if_neg hm]
      rfl

theorem execBr_setFlags (f : Flags) (n : Reg) (s : State) :
    execBr n (s.setFlags f) = answerSetFlags f (execBr n s) := by
  unfold execBr
  rw [State.setFlags_readX, State.setFlags_params]
  cases branchTargetFault s.params (s.readX n) <;> rfl

theorem branchIf_setFlags (f : Flags) (taken : Bool) (target : Nat) (s : State) :
    branchIf taken target (s.setFlags f) = answerSetFlags f (branchIf taken target s) := by
  cases taken <;> rfl

/-- An instruction that neither sets nor tests the flags does the same under other flags, and leaves those. -/
theorem exec_setFlags_of_not_setter {i : Instr} (hb : i.mnemonic ∉ mnemonicsCondBranch) (hf : ¬setsFlagsOf i) (s : State)
    (f : Flags) : exec i (s.setFlags f) = answerSetFlags f (exec i s) := by
  cases i
  case adds | addis | subs | subis | ands | andis | fcmps | fcmpd => simp [setsFlagsOf, Instr.mnemonic] at hf
  case bEq | bNe | bHs | bLo | bHi | bLs | bGe | bLt | bGt | bLe | bMi | bPl | bVs | bVc =>
    simp [mnemonicsCondBranch, Instr.mnemonic] at hb
  case ldur | ldursw | ldurh | ldurb => exact loadRegister_setFlags ..
  case stur | sturw | sturh | sturb => exact storeRegister_setFlags ..
  case ldxr => exact execLdxr_setFlags ..
  case stxr => exact execStxr_setFlags ..
  case br => exact execBr_setFlags ..
  case cbz | cbnz => exact branchIf_setFlags ..
  all_goals rfl

/-- A flag-setting instruction overwrites all four flags, whatever they were. -/
theorem exec_setFlags_of_setter {i : Instr} (hf : setsFlagsOf i) (s : State) (f : Flags) :
    exec i (s.setFlags f) = exec i s := by
  cases i
  case adds | addis | subs | subis | ands | andis | fcmps | fcmpd => rfl
  all_goals simp [setsFlagsOf, Instr.mnemonic] at hf

end Sys2Proof.Machine
end

section
/-!
PROOFS. What changes the exclusive monitor and the success flag (10_state R20 R22, 45_exclusive R223).
-/

namespace Sys2Proof.Machine

/-- An ordinary store changes the monitor only by clearing a tag that its bytes meet (44_load_store R203). -/
theorem monitorAfterStore_of_ne {mon : Option Word} {ea : Word} {size : Nat} (h : monitorAfterStore mon ea size ≠ mon) :
    ∃ a, mon = some a ∧ monitorAfterStore mon ea size = none ∧ ea.toNat < a.toNat + 8 ∧ a.toNat < ea.toNat + size := by
  cases mon with
  | none => exact absurd rfl h
  | some a =>
    by_cases ho : overlapsTag a ea size = true
    · have hbounds := ho
      simp only [overlapsTag, Bool.and_eq_true, decide_eq_true_eq] at hbounds
      exact ⟨a, rfl, by rw [monitorAfterStore, if_pos ho], hbounds⟩
    · exact absurd (by rw [monitorAfterStore, if_neg ho]) h

/-- The three events that change the monitor (R223). -/
theorem Effect.mon_cases {i : Instr} {s t : State} (h : Effect i s t) (hm : t.mon ≠ s.mon) :
    (∃ r n, i = .ldxr r n ∧ t.mon = some (s.readX n))
    ∨ (∃ r q n, i = .stxr r q n ∧ s.mon = some (s.readX n) ∧ t.mon = none)
    ∨ (∃ a n off size, ordinaryStore i n off size ∧ s.mon = some a ∧ t.mon = none
      ∧ (effectiveAddress s n off).toNat < a.toNat + 8 ∧ a.toNat < (effectiveAddress s n off).toNat + size) := by
  cases h with
  | store n off size v ho =>
    obtain ⟨a, hs, hclear, hmeet⟩ := monitorAfterStore_of_ne hm
    exact .inr (.inr ⟨a, n, off, size, ho, hs, hclear, hmeet⟩)
  | loadExclusive r n v hi => exact .inl ⟨r, n, hi, rfl⟩
  | storeExclusive r q n hi htag => exact .inr (.inl ⟨r, q, n, hi, htag, rfl⟩)
  | _ => exact absurd rfl hm

/-- Only STXR writes the success flag (10_state R22). -/
theorem Effect.stxrSuccess_of_ne {i : Instr} {s t : State} (h : Effect i s t) (hi : i.mnemonic ≠ .stxr) :
    t.stxrSuccess = s.stxrSuccess := by
  cases h with
  | storeExclusive _ _ _ hx => exact absurd (hx ▸ rfl) hi
  | storeFailed _ _ _ hx => exact absurd (hx ▸ rfl) hi
  | _ => rfl

end Sys2Proof.Machine
end

section
/-!
PROOFS. The steps and accessors of the two engines (10_state R19 R24 R28 R29).
-/

namespace Sys2Proof.Machine

/-- The program counter as a number taken modulo `2^64` (R19). -/
theorem State.pc_eq (s : State) : s.pc = BitVec.ofNat 64 (s.params.textBase.toNat + 4 * s.idx) := by
  rw [State.pc, pcOf, BitVec.ofNat_add, BitVec.ofNat_toNat, BitVec.setWidth_eq]

/-- With no error, `executeInstruction` is the fetched instruction (70_reset R305). -/
theorem executeInstruction_of_fetched {s : State} {r : Record} (he : s.err = none) (hf : s.fetched = some r) :
    executeInstruction s = exec r.instr s := by
  rcases executeInstruction_cases s with ⟨h, _⟩ | ⟨_, h, _⟩ | ⟨q, _, hq, h⟩
  · simp [he] at h
  · cases h.symm.trans hf
  · cases hq.symm.trans hf; exact h

/-- With no error, no stall pending and no taken branch in IF, a tick is a fetch (70_reset R327). -/
theorem clock_of_fetch {s : State} {r : Record} (he : s.err = none) (hf : s.fetched = some r)
    (hst : s.stallNext = false) (ht : ∀ p, s.buf.slotIF = some p → p.taken = false) : clock s = fetchTick s r := by
  rcases clock_cases s with ⟨h, _⟩ | ⟨_, h, _⟩ | ⟨_, h, _⟩ | ⟨_, _, h, _⟩ | ⟨_, p, _, _, _, hp, h, _⟩ | ⟨q, _, _, hq, _, h⟩
  · simp [he] at h
  · cases h.symm.trans hf
  · cases h.symm.trans hst
  · cases h.symm.trans hf
  · cases h.symm.trans (ht p hp)
  · cases hq.symm.trans hf; exact h

/-- A fetch tick, from the answer of the fetched instruction. -/
theorem fetchTick_eq {s t : State} (r : Record) (h : executeInstruction s = .next t) :
    fetchTick s r = .next (if t.err.isSome then t else t.shiftTo (s.buf.fetchIn s.flushNext
      { record := r, before := s.snapshot, after := t.snapshot, fetchPC := s.pc, taken := t.branchTaken })) := by
  obtain ⟨u, hu, ⟨he, hf⟩ | ⟨he, hf⟩⟩ := fetchTick_cases s r
  · cases hu.symm.trans h
    rw [hf, if_pos he]
  · cases hu.symm.trans h
    rw [hf, if_neg (by simp [he])]

/-- The step of a state that was loaded for the single-cycle engine is a call of `executeInstruction`. -/
theorem step_singleCycle {s : State} (h : s.engine = .singleCycle) : step s = executeInstruction s := by rw [step, h]

/-- Where the run has ended or faulted, `executeInstruction` does nothing (10_state R24, 60_exceptions R281). -/
theorem executeInstruction_of_halted {s : State} (h : s.halted = true) : executeInstruction s = .next s := by
  rcases executeInstruction_cases s with ⟨_, h'⟩ | ⟨_, _, h'⟩ | ⟨r, he, hf, _⟩
  · exact h'
  · exact h'
  · obtain ⟨_, hlt⟩ := State.fetched_mem hf
    simp only [State.halted, he, Option.isSome_none, Bool.false_or, decide_eq_true_eq] at h
    omega

/-- A halted single-cycle machine stays where it is. -/
theorem steps_of_halted {s : State} (he : s.engine = .singleCycle) (h : s.halted = true) (k : Nat) :
    steps k s = .next s := by
  induction k with
  | zero => rfl
  | succ k ih =>
    rw [steps, step_singleCycle he, executeInstruction_of_halted h]
    exact ih

/-- `run` under fuel is so many steps of the single-cycle engine (70_reset R306). -/
theorem run_eq_steps (fuel : Nat) : ∀ {s : State}, s.engine = .singleCycle → run fuel s = steps fuel s := by
  induction fuel with
  | zero => intro s _; rfl
  | succ fuel ih =>
    intro s he
    cases hh : s.halted with
    | true => rw [run_of_halted hh, steps_of_halted he hh]
    | false =>
      rw [run, hh, steps, step_singleCycle he]
      cases hx : executeInstruction s with
      | next t => exact ih ((executeInstruction_untouched hx).engine.trans he)
      | fault _ => rfl
      | refused _ => rfl

/-- Placing a word that decodes keeps the registers, the memory, the index and the engine. -/
theorem State.placeWord_rest {s : State} {w : Code} {i : Instr} (h : decode s.idx w = .ok i) :
    (s.placeWord w).x = s.x ∧ (s.placeWord w).mem = s.mem ∧ (s.placeWord w).idx = s.idx
      ∧ (s.placeWord w).engine = s.engine := by
  rw [State.placeWord, h]
  exact ⟨rfl, rfl, rfl, rfl⟩

/-- A word below `2^32` is placed whole. -/
theorem State.withFetchWord_eq (s : State) {w : Nat} (h : w < 2 ^ 32) :
    s.withFetchWord 32 w = s.placeWord (BitVec.ofNat 32 w) := by
  rw [State.withFetchWord, Nat.mod_eq_of_lt h]

end Sys2Proof.Machine
end

section
/-!
PROOFS. The obligations of 10_state.
-/

namespace Sys2Proof.Machine

/-- Settles O48: a step is a call of `executeInstruction` or a tick, and each keeps the core invariant. -/
theorem everyStepKeepsTheCoreInvariant : Obligations.EveryStepKeepsTheCoreInvariant := by
  intro s t h ht
  rw [step] at ht
  cases he : s.engine with
  | singleCycle => rw [he] at ht; exact h.executeInstruction ht
  | pipelined => rw [he] at ht; exact h.clock ht

/-- Settles O28: the order of patterns is that of the values they stand for, in either format. -/
theorem floatComparesFollowTheIeeeOrder : Obligations.FloatComparesFollowTheIeeeOrder := by
  intro s n m
  refine ⟨⟨_, _, rfl, .setFlags s _, fCmpDouble_compareFlags ..⟩, _, _, rfl, .setFlags s _, ?_⟩
  rw [State.readS_eq, State.readS_eq]
  exact fCmpSingle_compareFlags ..

/-- Settles O34: a flag setter overwrites the flags, any other instruction commutes with their change. -/
theorem onlyConditionalBranchesReadTheFlags : Obligations.OnlyConditionalBranchesReadTheFlags := by
  intro i s t f hb h
  by_cases hf : setsFlagsOf i
  · exact ⟨t.flags, (exec_setFlags_of_setter hf s f).trans h, fun _ => rfl, fun hn => absurd hf hn⟩
  · refine ⟨f, ?_, fun hs => absurd hs hf, fun _ => ⟨rfl, (exec_inversion h).flags_of_not_setter hf⟩⟩
    rw [exec_setFlags_of_not_setter hb hf, h]
    rfl

/-- Settles O35, read off the effect of the instruction. -/
theorem onlyTheDestinationRegisterIsWritten : Obligations.OnlyTheDestinationRegisterIsWritten :=
  fun _ _ _ h _ hr => (exec_inversion h).readX_of_not_dest hr

/-- Settles O37, read off the effect of the instruction. -/
theorem onlyTheListedEventsChangeTheMonitor : Obligations.OnlyTheListedEventsChangeTheMonitor :=
  fun _ _ _ h => ⟨(exec_inversion h).mon_cases, (exec_inversion h).stxrSuccess_of_ne⟩

/-- Settles O38: each column of the control word bounds one part of the effect. -/
theorem controlWordsTellWhatInstructionsWrite : Obligations.ControlWordsTellWhatInstructionsWrite := by
  intro i s t _ h hok
  have hx := exec_inversion h
  refine ⟨fun hf => hx.flags_of_not_setter (mt (flagWrite_iff_setsFlagsOf i).mpr hf), ?_, ?_, ?_,
    flagWrite_iff_setsFlagsOf i⟩
  · intro hw r
    refine hx.readX_of_not_dest fun hd => hw ((regWrite_iff_dest i).mpr ?_)
    rw [hd, Option.isSome_some]
  · intro hw a
    rcases hx.mem_cases with hm | ⟨hon, _⟩
    · rw [hm]
    · exact absurd hon hw
  · intro hu hf hz
    rcases hx.control_cases with ⟨f, rfl⟩ | hfall | hb | hb | hb
    · cases hok
    · exact hfall
    · exact absurd hb hu
    · exact absurd hb hf
    · exact absurd hb hz

/-- Settles O1: reset is the load of the empty program under the default launch. -/
theorem resetHoldsTheResetTable : Obligations.ResetHoldsTheResetTable := by
  refine ⟨fun r => ?_, fun r => ?_, rfl, rfl, ?_, rfl, rfl, rfl, rfl, fun _ => rfl, rfl, rfl, rfl, rfl, rfl, rfl, rfl,
    rfl, rfl, rfl⟩
  · by_cases hs : r = SP
    · rw [if_pos hs, hs]
      exact readX_loaded_sp ..
    · rw [if_neg hs]
      by_cases hz : r = XZR
      · rw [hz, State.readX_xzr]
      · rw [State.reset, readX_loaded_of_ne _ _ _ hs hz]
        simp [Launch.default]
  · simp [State.readD, State.reset, State.loaded, Launch.default]
  · simp [State.pc_eq, State.reset, State.loaded]

/-- Settles O31: the fetched record is executed, by the single-cycle engine alone, by the pipelined one in a fetch tick; a
placed word is the fetched record. -/
theorem stepRunsTheDecodedInstruction : Obligations.StepRunsTheDecodedInstruction := by
  refine ⟨fun s r he hf => ⟨fun hg => ?_, fun hg hst ht t h => ?_⟩, fun s => ⟨s.pc_eq, rfl⟩, fun s w i hg hw hd => ?_⟩
  · rw [step_singleCycle hg, executeInstruction_of_fetched he hf]
  · rw [step_pipelined hg, clock_of_fetch he hf hst ht]
    exact fetchTick_eq r ((executeInstruction_of_fetched he hf).trans h)
  · rw [s.withFetchWord_eq hw]
    obtain ⟨hfetch, herr⟩ := State.placeWord_fetched hd
    obtain ⟨hx, hmem, hidx, heng⟩ := State.placeWord_rest hd
    refine ⟨?_, hx, hmem, hidx⟩
    rw [step_singleCycle (heng.trans hg), executeInstruction_of_fetched herr hfetch]
    rfl

/-- Settles O39: nothing is left to fetch. -/
theorem anEndedRunDoesNothing : Obligations.AnEndedRunDoesNothing := by
  intro s he hend
  have hhalt : s.halted = true := by simp [State.halted, hend]
  refine ⟨executeInstruction_of_halted hhalt, run_of_halted hhalt, fun hb => ?_⟩
  rw [clock, he, fetched_eq_none_iff.mpr hend]
  exact if_pos hb

/-- Settles O47: the engine of the state decides each command and each accessor. -/
theorem enginesAreNotMixed : Obligations.EnginesAreNotMixed := by
  intro s fuel
  refine ⟨fun hg => ?_, fun hg => ?_, fun r => ?_, rfl, s.pc_eq, rfl, rfl, rfl, rfl⟩
  · have hshown : s.shown = s.snapshot := by rw [State.shown, hg]
    refine ⟨?_, ?_, ?_, run_eq_steps fuel hg, fun r => ?_, fun r => ?_, ?_⟩
    · simp only [State.command, hg]
    · simp only [State.command, hg, step]
    · simp only [State.command, hg]
    · rw [State.observeX, hshown]; rfl
    · rw [State.observeD, hshown]; rfl
    · rw [State.observeFlags, hshown]; rfl
  · have hshown : s.shown = s.vis := by rw [State.shown, hg]
    refine ⟨?_, ?_, ?_, fun r => ?_, fun r => ?_, ?_⟩
    · simp only [State.command, hg, step]
    · simp only [State.command, hg]
    · simp only [State.command, hg]
    · rw [State.observeX, hshown]; rfl
    · rw [State.observeD, hshown]
    · rw [State.observeFlags, hshown]
  · exact (BitVec.setWidth_eq_extractLsb' (by omega)).symm

/-- Settles O49: reset is a load of the empty program, and every legal load starts with both invariants. -/
theorem invariantsHoldAfterResetAndLoad : Obligations.InvariantsHoldAfterResetAndLoad :=
  ⟨.loaded .singleCycle (by decide) rfl, .loaded .., fun l e p hl hp => ⟨.loaded e hl hp, .loaded l e p⟩⟩

end Sys2Proof.Machine
end

section
/-!
PROOFS. The accesses of the data memory: the address and the extension of a load as numbers, what a good access answers, and
the fault of a bad one (20_memory R42 R46 R47 R52, 44_load_store R200 R201 R205, 45_exclusive R222).
-/

namespace Sys2Proof.Machine

/-- The effective address is a sum of integers, taken modulo `2^64` (44_load_store R200). -/
theorem effectiveAddress_eq_ofInt (s : State) (n : Reg) (off : Int) :
    effectiveAddress s n off = BitVec.ofInt 64 ((s.readX n).toNat + off) := by
  rw [effectiveAddress, BitVec.ofInt_add, BitVec.ofInt_natCast, BitVec.ofNat_toNat, BitVec.setWidth_eq]

/-- The extension of a word load is the two's complement of the word's signed value (44_load_store R205). -/
theorem signExtendWord_eq_ofInt {w : Word} (hw : w.toNat < 2 ^ 32) :
    signExtendWord w = BitVec.ofInt 64 (if w.toNat < 2 ^ 31 then w.toNat else w.toNat - 2 ^ 32) := by
  have hlow : (w.extractLsb' 0 32).toNat = w.toNat := by
    rw [BitVec.extractLsb'_toNat, Nat.shiftRight_zero, Nat.mod_eq_of_lt hw]
  have hsign : (w.extractLsb' 0 32).toInt = if w.toNat < 2 ^ 31 then (w.toNat : Int) else w.toNat - 2 ^ 32 := by
    rw [BitVec.toInt_eq_toNat_cond, hlow]
    split <;> split <;> omega
  rw [signExtendWord, BitVec.signExtend, hsign]

/-- A load whose base and bytes are good writes back the extension of the big-endian value of its bytes. -/
theorem loadRegister_bigEndian {s : State} {n : Reg} {off : Int} {size : Nat} (t : Reg) (ext : Word → Word)
    (hb : s.baseReady n) (h : s.inData (effectiveAddress s n off) size) (hs : 0 < size) (h8 : size ≤ 8) :
    ∃ u v, loadRegister t n off size ext s = .next u
      ∧ IsBigEndianValue s.mem (effectiveAddress s n off).toNat size v ∧ RegisterResult s u t (ext v) :=
  ⟨_, _, loadRegister_result ext hb h hs, isBigEndianValue_loadBytes h h8, .writeBack ..⟩

/-- STXR at the tagged address, whose base and bytes are good, stores, clears the tag and reports 0 (45_exclusive R222). -/
theorem execStxr_of_tagged {s : State} {n : Reg} (t st : Reg) (hb : s.baseReady n) (hm : s.mon = some (s.readX n))
    (h : s.inData (s.readX n) 8) :
    execStxr t st n s = .next
      ((((s.setMem (s.mem.storeBytes (s.readX n) (toBigEndian (s.readX t) 8))).setMonitor none).setStxrSuccess
        true).writeX st 0#64).advance := by
  rcases execStxr_cases t st n s with ⟨f, hf, _⟩ | ⟨f, _, _, hf, _⟩ | ⟨_, _, _, hr⟩ | ⟨_, hn, _⟩
  · rw [baseFault_eq_none hb] at hf; cases hf
  · rw [h.checkRange (by decide)] at hf; cases hf
  · exact hr
  · exact absurd hm hn

/-! ## The faults -/

/-- An address is outside the data window exactly when the window test rejects it (20_memory R42). -/
theorem outside_iff (s : State) (a : Word) : s.outside a ↔ inWindow s.params a = false := by
  rw [State.outside, ← inWindow_iff, Bool.not_eq_true]

/-- The range check raises the first failing byte (20_memory R46). -/
theorem checkRange_of_firstFailing {s : State} {a bad : Word} {size : Nat} (h : s.firstFailing a size bad) :
    checkRange s.params a size = some (.segmentFault bad) := by
  rcases h with ⟨hfirst, rfl⟩ | ⟨hfirst, hlast, rfl⟩
  · exact checkRange_of_first size ((outside_iff s bad).mp hfirst)
  · rw [outside_iff, Bool.not_eq_false] at hfirst
    exact checkRange_of_last hfirst ((outside_iff s _).mp hlast)

/-- The fault of a memory instruction before it accesses a byte: of its base `n`, or else of its `size` bytes at `a`. -/
def AccessFault (s : State) (n : Reg) (a : Word) (size : Nat) (f : Fault) : Prop :=
  baseFault s n = some f ∨ baseFault s n = none ∧ checkRange s.params a size = some f

/-- A base 28 that is no multiple of 16 is the fault, whatever the address (60_exceptions R276). -/
theorem AccessFault.of_misaligned {s : State} (h : (s.readX SP).toNat % 16 ≠ 0) (a : Word) (size : Nat) :
    AccessFault s SP a size (.spAlignment (s.readX SP)) := .inl (baseFault_sp h)

/-- With a good base the first failing byte is the fault. -/
theorem AccessFault.of_firstFailing {s : State} {n : Reg} {a bad : Word} {size : Nat} (hb : s.baseReady n)
    (h : s.firstFailing a size bad) : AccessFault s n a size (.segmentFault bad) :=
  .inr ⟨baseFault_eq_none hb, checkRange_of_firstFailing h⟩

/-- A load takes its access fault. -/
theorem AccessFault.loadRegister {s : State} {n : Reg} {off : Int} {size : Nat} {f : Fault}
    (h : AccessFault s n (effectiveAddress s n off) size f) (t : Reg) (ext : Word → Word) :
    ∃ u, Machine.loadRegister t n off size ext s = .next u ∧ FaultEntry s u f := by
  refine ⟨s.takeFault f, ?_, rfl⟩
  rcases h with hb | ⟨hb, hc⟩
  · simp only [Machine.loadRegister, hb]
  · simp only [Machine.loadRegister, hb, State.memRead_of_fault hc]

/-- An ordinary store takes its access fault. -/
theorem AccessFault.storeRegister {s : State} {n : Reg} {off : Int} {size : Nat} {f : Fault}
    (h : AccessFault s n (effectiveAddress s n off) size f) (t : Reg) :
    ∃ u, Machine.storeRegister t n off size s = .next u ∧ FaultEntry s u f := by
  refine ⟨s.takeFault f, ?_, rfl⟩
  rcases h with hb | ⟨hb, hc⟩
  · simp only [Machine.storeRegister, hb]
  · simp only [Machine.storeRegister, hb, State.memWrite_of_fault _ hc]

/-- LDXR takes its access fault. -/
theorem AccessFault.execLdxr {s : State} {n : Reg} {f : Fault} (h : AccessFault s n (s.readX n) 8 f) (t : Reg) :
    ∃ u, Machine.execLdxr t n s = .next u ∧ FaultEntry s u f := by
  refine ⟨s.takeFault f, ?_, rfl⟩
  rcases h with hb | ⟨hb, hc⟩
  · simp only [Machine.execLdxr, hb]
  · simp only [Machine.execLdxr, hb, State.memRead_of_fault hc]

/-- STXR takes the fault of its base, whatever the monitor. -/
theorem execStxr_of_baseFault {s : State} {n : Reg} {f : Fault} (h : baseFault s n = some f) (t st : Reg) :
    ∃ u, execStxr t st n s = .next u ∧ FaultEntry s u f := by
  refine ⟨s.takeFault f, ?_, rfl⟩
  simp only [execStxr, h]

/-- STXR at the tagged address takes its access fault. -/
theorem AccessFault.execStxr {s : State} {n : Reg} {f : Fault} (h : AccessFault s n (s.readX n) 8 f)
    (hm : s.mon = some (s.readX n)) (t st : Reg) :
    ∃ u, Machine.execStxr t st n s = .next u ∧ FaultEntry s u f := by
  rcases h with hb | ⟨hb, hc⟩
  · exact execStxr_of_baseFault hb t st
  · exact ⟨s.takeFault f, by simp only [Machine.execStxr, hb, if_pos hm, State.memWrite_of_fault _ hc], rfl⟩

end Sys2Proof.Machine
end

section
/-!
PROOFS. The obligations of 20_memory.
-/

namespace Sys2Proof.Machine

/-- Settles O11: three widths of the one load, which keeps the zeros above the value. -/
theorem loadsReadBigEndianAndZeroExtend : Obligations.LoadsReadBigEndianAndZeroExtend := by
  refine ⟨effectiveAddress_eq_ofInt, fun s t n off hb => ⟨?_, ?_, ?_⟩⟩
  all_goals exact fun h => loadRegister_bigEndian t id hb h (by decide) (by decide)

/-- Settles O12: the value of four bytes is a word, and the load extends its sign. -/
theorem wordLoadSignExtends : Obligations.WordLoadSignExtends := by
  refine ⟨effectiveAddress_eq_ofInt, fun s t n off hb h => ?_⟩
  obtain ⟨u, w, hu, hw, hr⟩ := loadRegister_bigEndian t signExtendWord hb h (by decide) (by decide)
  rw [signExtendWord_eq_ofInt hw.above] at hr
  exact ⟨u, w, hu, hw, hr⟩

/-- Settles O13: four widths of the one store. -/
theorem storesWriteTheirBytesAndBreakTheTag : Obligations.StoresWriteTheirBytesAndBreakTheTag := by
  refine ⟨effectiveAddress_eq_ofInt, fun s t n off hw hb => ⟨?_, ?_, ?_, ?_⟩⟩
  all_goals exact fun h => storeRegister_result hw hb h (by decide) (by decide)

/-- Settles O16: the value stored is read before the status register is written. -/
theorem stxrSucceedsOnTheTaggedAddress : Obligations.StxrSucceedsOnTheTaggedAddress := by
  intro s t st n hw hb hm h
  refine ⟨_, execStxr_of_tagged t st hb hm h, .storeBytes (s.readX t) hw h (by decide) rfl, fun r => ?_, rfl, rfl, rfl,
    ⟨rfl, rfl, rfl⟩, by constructor <;> rfl⟩
  simp [State.readX_writeX]

/-- Settles O19: the check of register 28 comes before the access in each of the ten. -/
theorem misalignedStackPointerFaultsFirst : Obligations.MisalignedStackPointerFaultsFirst := by
  intro s t st off h
  have load := fun size => (AccessFault.of_misaligned h (effectiveAddress s SP off) size).loadRegister t
  have store := fun size => (AccessFault.of_misaligned h (effectiveAddress s SP off) size).storeRegister t
  simp only [List.forall_mem_cons]
  exact ⟨load 8 id, load 4 signExtendWord, load 2 id, load 1 id, store 8, store 4, store 2, store 1,
    (AccessFault.of_misaligned h _ 8).execLdxr t, execStxr_of_baseFault (baseFault_sp h) t st, List.forall_mem_nil _⟩

/-- Settles O20: the base is good, so the fault is that of the range check. -/
theorem accessOutsideTheWindowFaults : Obligations.AccessOutsideTheWindowFaults := by
  refine ⟨effectiveAddress_eq_ofInt, fun s t st n off bad hb => ?_⟩
  simp only [List.forall_mem_cons]
  have fault : ∀ {a size}, s.firstFailing a size bad → AccessFault s n a size (.segmentFault bad) :=
    AccessFault.of_firstFailing hb
  refine ⟨?_, ?_, ?_, ?_, fun h => ⟨(fault h).execLdxr t, fun hm => (fault h).execStxr hm t st⟩⟩
  all_goals exact fun h => ⟨(fault h).loadRegister t _, (fault h).storeRegister t, List.forall_mem_nil _⟩

/-- Settles O32: the program is among what no step changes, and a fetch reads the program and the index. -/
theorem storesNeverReachTheProgram : Obligations.StoresNeverReachTheProgram :=
  ⟨fun _ _ h => (step_sameLoad h).program, State.setMem_fetched⟩

end Sys2Proof.Machine
end

section
/-!
PROOFS. The round trips of the word encoding: an encodable instruction's operands survive their fields, and a word that
matches a row is put together again from its fields (30_encoding R82 to R92).
-/

namespace Sys2Proof

/-! ## The ranges of the immediates (R79) -/

theorem permittedImm12_allows (k : Nat) : permittedImm12.allows k = true ↔ k ≤ 4095 := by
  simp [permittedImm12, Permitted.allows]

theorem permittedShift_allows (k : Nat) : permittedShift.allows k = true ↔ k ≤ 63 := by
  simp [permittedShift, Permitted.allows]

theorem permittedWide_allows (k : Nat) : permittedWide.allows k = true ↔ k ≤ 65535 := by
  simp [permittedWide, Permitted.allows]

theorem permittedOffset_allows (o : Int) : permittedOffset.allows o = true ↔ -256 ≤ o ∧ o ≤ 255 := by
  simp [permittedOffset, Permitted.allows]

theorem permittedQuadrant_allows (q : Nat) : permittedQuadrant.allows q = true ↔ q ∈ [0, 16, 32, 48] := by
  simp [permittedQuadrant, Permitted.allows]
  omega

theorem permittedExclusive_allows (v : Int) : permittedExclusive.allows v = true ↔ v = 0 := by
  simp [permittedExclusive, Permitted.allows]

/-! ## What is encodable fits its fields -/

theorem encodable_iff (own : Nat) (i : Instr) :
    i.encodable own = true ↔ i.immediatesOk = true ∧ i.reachable own = true := by
  rw [Instr.encodable, Bool.and_eq_true]

/-- The word of an encodable instruction. -/
theorem encode_eq_some_iff {own : Nat} {i : Instr} {w : Code} :
    encode own i = some w ↔ i.encodable own = true ∧ encodeWord own i = w := by
  rw [encode, Option.ite_none_right_eq_some, Option.some_inj]

/-- A branch to a label and how many bits its distance has (R90). -/
theorem reachable_iff_of_bits {i : Instr} {own target bits : Nat}
    (h : i.target? = some target ∧ i.displacementBits = bits + 1) : i.reachable own = true
      ↔ -2 ^ bits ≤ (target : Int) - own ∧ (target : Int) - own < 2 ^ bits := by
  rw [Instr.reachable_iff h.1, h.2, Nat.add_sub_cancel]

/-- The distance of a branch of 26 bits survives its field. -/
theorem targetIndex_of_fits26 {own target : Nat}
    (h : -2 ^ 25 ≤ (target : Int) - own ∧ (target : Int) - own < 2 ^ 25) :
    targetIndex own (((target : Int) - own).bmod (2 ^ 26)) = some target := by
  rw [bmod_of_fits _ 25 h.1 h.2, targetIndex_sub]

/-- The distance of a branch of 19 bits survives its field. -/
theorem targetIndex_of_fits19 {own target : Nat}
    (h : -2 ^ 18 ≤ (target : Int) - own ∧ (target : Int) - own < 2 ^ 18) :
    targetIndex own (((target : Int) - own).bmod (2 ^ 19)) = some target := by
  rw [bmod_of_fits _ 18 h.1 h.2, targetIndex_sub]

/-- A shift of a quadrant survives its division by 16. -/
theorem quadrant_of_mem {q : Nat} (h : q ∈ [0, 16, 32, 48]) : 16 * (q / 16 % 4) = q := by
  revert q
  decide

/-- The operands of an encodable instruction are read back from the fields of its word (R90 R91). -/
theorem operandsOf_encodeWord {own : Nat} {i : Instr} (h : i.encodable own = true) :
    operandsOf i.mnemonic own (encodeWord own i) = some i := by
  obtain ⟨himm, hreach⟩ := (encodable_iff own i).mp h
  cases i with
  | add | adds | sub | subs | and | ands | orr | eor | br | fcmps | fcmpd | ldxr | stxr =>
    simp [Instr.mnemonic, encodeWord, operandsOf]
  | addi d n k | addis d n k | subi d n k | subis d n k | andi d n k | andis d n k | orri d n k | eori d n k =>
    have hk : k % 4096 = k := Nat.mod_eq_of_lt (Nat.lt_succ_of_le ((permittedImm12_allows k).mp himm))
    simp [Instr.mnemonic, encodeWord, operandsOf, hk]
  | lsl d n k | lsr d n k =>
    have hk : k % 64 = k := Nat.mod_eq_of_lt (Nat.lt_succ_of_le ((permittedShift_allows k).mp himm))
    simp [Instr.mnemonic, encodeWord, operandsOf, hk]
  | movz d k q | movk d k q =>
    obtain ⟨hwide, hquadrant⟩ := Bool.and_eq_true .. ▸ himm
    have hk : k % 65536 = k := Nat.mod_eq_of_lt (Nat.lt_succ_of_le ((permittedWide_allows k).mp hwide))
    have hq := quadrant_of_mem ((permittedQuadrant_allows q).mp hquadrant)
    simp [Instr.mnemonic, encodeWord, operandsOf, hk, hq]
  | ldur t n o | ldursw t n o | ldurh t n o | ldurb t n o | stur t n o | sturw t n o | sturh t n o | sturb t n o =>
    obtain ⟨hlo, hhi⟩ := (permittedOffset_allows o).mp himm
    have ho : o.bmod 512 = o := bmod_of_fits o 8 hlo (by omega)
    simp [Instr.mnemonic, encodeWord, operandsOf, ho]
  | b target | bl target =>
    have ht := targetIndex_of_fits26 ((reachable_iff_of_bits ⟨rfl, rfl⟩).mp hreach)
    rw [encodeWord, Instr.mnemonic, operandsOf, fieldTarget26_wordB, ht, Option.map_some]
  | cbz t target | cbnz t target =>
    have ht := targetIndex_of_fits19 ((reachable_iff_of_bits ⟨rfl, rfl⟩).mp hreach)
    rw [encodeWord, Instr.mnemonic, operandsOf, fieldTarget19_wordCB, ht, Option.map_some, fieldRd_wordCB, toFin_ofFin]
  | bEq target | bNe target | bHs target | bLo target | bHi target | bLs target | bGe target | bLt target | bGt target
  | bLe target | bMi target | bPl target | bVs target | bVc target =>
    have ht := targetIndex_of_fits19 ((reachable_iff_of_bits ⟨rfl, rfl⟩).mp hreach)
    rw [encodeWord, Instr.mnemonic, operandsOf, fieldTarget19_wordCB, ht, Option.map_some]

open Laws in
/-- Every instruction's word matches the row of its mnemonic. -/
theorem encodeWord_admitted (own : Nat) (i : Instr) :
    ∃ r ∈ opcodeTable, r.mnemonic = i.mnemonic ∧ r.admits (encodeWord own i) = true := by
  cases i
  exacts [
    EncodesItsOpcode.add .., EncodesItsOpcode.adds .., EncodesItsOpcode.addi .., EncodesItsOpcode.addis ..,
    EncodesItsOpcode.sub .., EncodesItsOpcode.subs .., EncodesItsOpcode.subi .., EncodesItsOpcode.subis ..,
    EncodesItsOpcode.and .., EncodesItsOpcode.ands .., EncodesItsOpcode.andi .., EncodesItsOpcode.andis ..,
    EncodesItsOpcode.orr .., EncodesItsOpcode.orri .., EncodesItsOpcode.eor .., EncodesItsOpcode.eori ..,
    EncodesItsOpcode.lsl .., EncodesItsOpcode.lsr .., EncodesItsOpcode.movz .., EncodesItsOpcode.movk ..,
    EncodesItsOpcode.ldur .., EncodesItsOpcode.ldursw .., EncodesItsOpcode.ldurh .., EncodesItsOpcode.ldurb ..,
    EncodesItsOpcode.stur .., EncodesItsOpcode.sturw .., EncodesItsOpcode.sturh .., EncodesItsOpcode.sturb ..,
    EncodesItsOpcode.ldxr .., EncodesItsOpcode.stxr .., EncodesItsOpcode.b .., EncodesItsOpcode.bl ..,
    EncodesItsOpcode.br .., EncodesItsOpcode.cbz .., EncodesItsOpcode.cbnz .., EncodesItsOpcode.bEq ..,
    EncodesItsOpcode.bNe .., EncodesItsOpcode.bHs .., EncodesItsOpcode.bLo .., EncodesItsOpcode.bHi ..,
    EncodesItsOpcode.bLs .., EncodesItsOpcode.bGe .., EncodesItsOpcode.bLt .., EncodesItsOpcode.bGt ..,
    EncodesItsOpcode.bLe .., EncodesItsOpcode.bMi .., EncodesItsOpcode.bPl .., EncodesItsOpcode.bVs ..,
    EncodesItsOpcode.bVc .., EncodesItsOpcode.fcmps .., EncodesItsOpcode.fcmpd ..]

/-- The decoder reads an encodable instruction back from its word. -/
theorem decode_encodeWord {own : Nat} {i : Instr} (h : i.encodable own = true) :
    decode own (encodeWord own i) = .ok i := by
  obtain ⟨r, hr, hm, ha⟩ := encodeWord_admitted own i
  exact decode_of_admits hr ha (hm ▸ operandsOf_encodeWord h)

/-! ## A word is put together from its fields (R83 to R88) -/

/-- Where a row fixes a whole field, every word it admits has the row's value there. -/
theorem OpcodeRow.admits_fixes {r : OpcodeRow} {w : Code} {start len : Nat} {v : BitVec len} (ha : r.admits w = true)
    (h : r.mask.extractLsb' start len = BitVec.allOnes len ∧ r.pattern.extractLsb' start len = v) :
    w.extractLsb' start len = v := by
  have hp : w &&& r.mask = r.pattern := of_decide_eq_true ha
  rw [← h.2, ← hp, BitVec.extractLsb'_and, h.1, BitVec.and_allOnes]

/-- A word is its upper field before its lower bits. -/
theorem extractLsb'_split {n : Nat} (w : BitVec n) (start len upper : Nat) :
    w.extractLsb' (start + len) upper ++ w.extractLsb' start len = w.extractLsb' start (upper + len) :=
  BitVec.extractLsb'_append_extractLsb'_eq_extractLsb' rfl

theorem wordR_of_fields {w : Code} {op : BitVec 11} {rm rn rd : Fin 32} {sh : Nat} (hop : w.extractLsb' 21 11 = op)
    (hrm : fieldRm w = rm) (hsh : fieldShamt w = sh) (hrn : fieldRn w = rn) (hrd : fieldRd w = rd) :
    wordR op rm sh rn rd = w := by
  subst hop hrm hsh hrn hrd
  simp only [wordR, fieldRm, fieldShamt, fieldRn, fieldRd, BitVec.ofFin_toFin, BitVec.ofNat_toNat, BitVec.setWidth_eq]
  rw [extractLsb'_split w 16 5, extractLsb'_split w 10 6, extractLsb'_split w 5 5, extractLsb'_split w 0 5,
    BitVec.extractLsb'_eq_self]

theorem wordI_of_fields {w : Code} {op : BitVec 10} {k : Nat} {rn rd : Fin 32} (hop : w.extractLsb' 22 10 = op)
    (hk : fieldImm12 w = k) (hrn : fieldRn w = rn) (hrd : fieldRd w = rd) : wordI op k rn rd = w := by
  subst hop hk hrn hrd
  simp only [wordI, fieldImm12, fieldRn, fieldRd, BitVec.ofFin_toFin, BitVec.ofNat_toNat, BitVec.setWidth_eq]
  rw [extractLsb'_split w 10 12, extractLsb'_split w 5 5, extractLsb'_split w 0 5, BitVec.extractLsb'_eq_self]

theorem wordD_of_fields {w : Code} {op : BitVec 11} {o : Int} {rn rt : Fin 32} (hop : w.extractLsb' 21 11 = op)
    (ho : fieldImm9 w = o) (hop2 : w.extractLsb' 10 2 = 0#2) (hrn : fieldRn w = rn) (hrt : fieldRd w = rt) :
    wordD op o rn rt = w := by
  subst hop ho hrn hrt
  simp only [wordD, fieldImm9, fieldRn, fieldRd, BitVec.ofFin_toFin, BitVec.ofInt_toInt]
  rw [← hop2, extractLsb'_split w 12 9, extractLsb'_split w 10 2, extractLsb'_split w 5 5, extractLsb'_split w 0 5,
    BitVec.extractLsb'_eq_self]

theorem wordX_of_fields {w : Code} {op : BitVec 11} {rs rn rt : Fin 32} (hop : w.extractLsb' 21 11 = op)
    (hrs : fieldRm w = rs) (hlow : w.extractLsb' 10 6 = 0#6) (hrn : fieldRn w = rn) (hrt : fieldRd w = rt) :
    wordX op rs rn rt = w := by
  subst hop hrs hrn hrt
  simp only [wordX, fieldRm, fieldRn, fieldRd, BitVec.ofFin_toFin]
  rw [← hlow, extractLsb'_split w 16 5, extractLsb'_split w 10 6, extractLsb'_split w 5 5, extractLsb'_split w 0 5,
    BitVec.extractLsb'_eq_self]

theorem wordIM_of_fields {w : Code} {op : BitVec 9} {q k : Nat} {rd : Fin 32} (hop : w.extractLsb' 23 9 = op)
    (hq : fieldQuadrant w = q) (hk : fieldImm16 w = k) (hrd : fieldRd w = rd) : wordIM op q k rd = w := by
  subst hop hq hk hrd
  simp only [wordIM, fieldQuadrant, fieldImm16, fieldRd, BitVec.ofFin_toFin,
    Nat.mul_div_cancel_left _ (show 0 < 16 by decide), BitVec.ofNat_toNat, BitVec.setWidth_eq]
  rw [extractLsb'_split w 21 2, extractLsb'_split w 5 16, extractLsb'_split w 0 5, BitVec.extractLsb'_eq_self]

/-- The distance of a target is the one it was found by. -/
theorem distance_of_targetIndex {own target : Nat} {d : Int} (h : targetIndex own d = some target) :
    (target : Int) - own = d := by
  obtain ⟨hd, ht⟩ := Option.ite_none_right_eq_some.mp h
  rw [Option.some_inj] at ht
  omega

theorem wordB_of_fields {w : Code} {op : BitVec 6} {own target : Nat} (hop : w.extractLsb' 26 6 = op)
    (ht : fieldTarget26 own w = some target) : wordB op own target = w := by
  subst hop
  rw [wordB, distance_of_targetIndex ht, BitVec.ofInt_toInt, extractLsb'_split w 0 26, BitVec.extractLsb'_eq_self]

theorem wordCB_of_fields {w : Code} {op : BitVec 8} {own target : Nat} {low : BitVec 5} (hop : w.extractLsb' 24 8 = op)
    (ht : fieldTarget19 own w = some target) (hlow : w.extractLsb' 0 5 = low) : wordCB op own target low = w := by
  subst hop hlow
  rw [wordCB, distance_of_targetIndex ht, BitVec.ofInt_toInt, extractLsb'_split w 5 19, extractLsb'_split w 0 5,
    BitVec.extractLsb'_eq_self]

/-! ## The fields hold encodable operands only -/

theorem fieldImm12_allowed (w : Code) : permittedImm12.allows (fieldImm12 w) = true :=
  (permittedImm12_allows _).mpr (Nat.le_of_lt_succ (BitVec.isLt _))

theorem fieldShamt_allowed (w : Code) : permittedShift.allows (fieldShamt w) = true :=
  (permittedShift_allows _).mpr (Nat.le_of_lt_succ (BitVec.isLt _))

theorem fieldImm9_allowed (w : Code) : permittedOffset.allows (fieldImm9 w) = true :=
  (permittedOffset_allows _).mpr ⟨BitVec.le_toInt _, BitVec.toInt_le⟩

theorem fieldsIM_allowed (w : Code) :
    (permittedWide.allows (fieldImm16 w) && permittedQuadrant.allows (fieldQuadrant w)) = true := by
  rw [Bool.and_eq_true, permittedWide_allows, permittedQuadrant_allows, fieldQuadrant]
  refine ⟨Nat.le_of_lt_succ (BitVec.isLt _), ?_⟩
  generalize w.extractLsb' 21 2 = hw
  revert hw
  decide

theorem reachable_of_target26 {own target : Nat} {w : Code} {i : Instr} (ht : fieldTarget26 own w = some target)
    (hi : i.target? = some target ∧ i.displacementBits = 26) : i.reachable own = true := by
  rw [reachable_iff_of_bits hi, distance_of_targetIndex ht]
  exact ⟨BitVec.le_toInt _, BitVec.toInt_lt⟩

theorem reachable_of_target19 {own target : Nat} {w : Code} {i : Instr} (ht : fieldTarget19 own w = some target)
    (hi : i.target? = some target ∧ i.displacementBits = 19) : i.reachable own = true := by
  rw [reachable_iff_of_bits hi, distance_of_targetIndex ht]
  exact ⟨BitVec.le_toInt _, BitVec.toInt_lt⟩

/-! ## A decoded word is encoded back -/

/-- The row of a mnemonic: the first of its name. -/
def Mnemonic.row (m : Mnemonic) : OpcodeRow := (opcodeTable.find? (fun r => r.mnemonic = m)).getD ⟨m, 0#32, 0#32⟩

/-- The table has one row per mnemonic. -/
theorem eq_row_of_mem : ∀ r ∈ opcodeTable, r = r.mnemonic.row := by decide

/-- The operands of a word that its row admits encode to that very word. -/
theorem encode_of_admits {m : Mnemonic} {own : Nat} {w : Code} {i : Instr} (ha : m.row.admits w = true)
    (ho : operandsOf m own w = some i) : encode own i = some w := by
  rw [encode_eq_some_iff, encodable_iff, and_assoc]
  have fixes {start len : Nat} (v : BitVec len) := OpcodeRow.admits_fixes (start := start) (v := v) ha
  have shamt {v : BitVec 6} h : fieldShamt w = v.toNat := congrArg BitVec.toNat (fixes v h)
  have reg {start : Nat} (v : BitVec 5) h := congrArg BitVec.toFin (fixes (start := start) v h)
  cases m with
  | add | adds | sub | subs | and | ands | orr | eor =>
    cases ho
    exact ⟨rfl, rfl, wordR_of_fields (fixes _ (by decide)) rfl (shamt (v := 0#6) (by decide)) rfl rfl⟩
  | addi | addis | subi | subis | andi | andis | orri | eori =>
    cases ho
    exact ⟨fieldImm12_allowed w, rfl, wordI_of_fields (fixes _ (by decide)) rfl rfl rfl⟩
  | lsl | lsr =>
    cases ho
    exact ⟨fieldShamt_allowed w, rfl, wordR_of_fields (fixes _ (by decide)) (reg 0#5 (by decide)) rfl rfl rfl⟩
  | movz | movk =>
    cases ho
    exact ⟨fieldsIM_allowed w, rfl, wordIM_of_fields (fixes _ (by decide)) rfl rfl rfl⟩
  | ldur | ldursw | ldurh | ldurb | stur | sturw | sturh | sturb =>
    cases ho
    exact ⟨fieldImm9_allowed w, rfl, wordD_of_fields (fixes _ (by decide)) rfl (fixes _ (by decide)) rfl rfl⟩
  | ldxr =>
    cases ho
    exact ⟨rfl, rfl, wordX_of_fields (fixes _ (by decide)) (reg 0#5 (by decide)) (fixes _ (by decide)) rfl rfl⟩
  | stxr =>
    cases ho
    exact ⟨rfl, rfl, wordX_of_fields (fixes _ (by decide)) rfl (fixes _ (by decide)) rfl rfl⟩
  | b | bl =>
    obtain ⟨target, ht, rfl⟩ := Option.map_eq_some_iff.mp ho
    exact ⟨rfl, reachable_of_target26 ht ⟨rfl, rfl⟩, wordB_of_fields (fixes _ (by decide)) ht⟩
  | br =>
    cases ho
    exact ⟨rfl, rfl, wordR_of_fields (fixes _ (by decide)) (reg 0#5 (by decide)) (shamt (v := 0#6) (by decide)) rfl
      (reg 0#5 (by decide))⟩
  | cbz | cbnz =>
    obtain ⟨target, ht, rfl⟩ := Option.map_eq_some_iff.mp ho
    exact ⟨rfl, reachable_of_target19 ht ⟨rfl, rfl⟩, wordCB_of_fields (fixes _ (by decide)) ht rfl⟩
  | bEq | bNe | bHs | bLo | bHi | bLs | bGe | bLt | bGt | bLe | bMi | bPl | bVs | bVc =>
    obtain ⟨target, ht, rfl⟩ := Option.map_eq_some_iff.mp ho
    exact ⟨rfl, reachable_of_target19 ht ⟨rfl, rfl⟩, wordCB_of_fields (fixes _ (by decide)) ht (fixes _ (by decide))⟩
  | fcmps | fcmpd =>
    cases ho
    exact ⟨rfl, rfl, wordR_of_fields (fixes _ (by decide)) rfl (shamt (v := 0b001000#6) (by decide)) rfl
      (reg 0#5 (by decide))⟩

/-- An instruction the decoder reads encodes to the word it was read from. -/
theorem encode_of_decode {own : Nat} {w : Code} {i : Instr} (h : decode own w = .ok i) : encode own i = some w := by
  obtain ⟨r, hr, ha, ho⟩ := decode_inversion h
  rw [eq_row_of_mem r hr] at ha
  exact encode_of_admits ha ho

/-! ## Words no row admits -/

/-- A word with one of the opcodes `ops` in one field and none that `allowed` permits in another is no instruction, when
each row conflicts with the opcode or fixes a permitted value. -/
theorem decode_eq_noSuchInstruction {own : Nat} {w : Code} {start len start' len' : Nat} {op : BitVec len}
    {ops : List (BitVec len)} {allowed : BitVec len' → Prop} [DecidablePred allowed] (hmem : op ∈ ops)
    (hop : w.extractLsb' start len = op) (hbad : ¬ allowed (w.extractLsb' start' len'))
    (hrows : ops.all (fun op => opcodeTable.all fun r =>
      op &&& r.mask.extractLsb' start len ≠ r.pattern.extractLsb' start len
        ∨ r.mask.extractLsb' start' len' = BitVec.allOnes len' ∧ allowed (r.pattern.extractLsb' start' len')) = true) :
    decode own w = .error .noSuchInstruction := by
  have hnone : opcodeTable.find? (fun r => r.admits w) = none := by
    refine List.find?_eq_none.mpr fun r hr ha => ?_
    have hrow := List.all_eq_true.mp (List.all_eq_true.mp hrows op hmem) r hr
    rcases of_decide_eq_true hrow with hconflict | ⟨hmask, hallowed⟩
    · have hp : w &&& r.mask = r.pattern := of_decide_eq_true ha
      exact hconflict (by rw [← hop, ← BitVec.extractLsb'_and, hp])
    · exact hbad (by rwa [OpcodeRow.admits_fixes ha ⟨hmask, rfl⟩])
  rw [decode, hnone]

end Sys2Proof
end

section
/-!
PROOFS. What a well-formed record and a well-formed program are (30_encoding R77 R79 R102 R110).
-/

namespace Sys2Proof

/-- A target is in order exactly when it is an index of the program (R77). -/
theorem targetOk_iff (N : Nat) (i : Instr) : i.targetOk N = true ↔ ∀ target, i.target? = some target → target < N := by
  unfold Instr.targetOk
  cases i.target? <;> simp

/-- A well-formed record (R77 R79 R110). -/
theorem recordWf_iff (N : Nat) (r : Record) : Record.wf N r = true ↔ r.instr.immediatesOk = true
    ∧ (∀ target, r.instr.target? = some target → target < N) ∧ r.ctrl = controlOf r.instr.mnemonic := by
  rw [Record.wf, Instr.wf, Bool.and_eq_true, Bool.and_eq_true, targetOk_iff, decide_eq_true_iff, and_assoc]

/-- A well-formed program (R102). -/
theorem programWf_iff (p : Program) : Program.wf p = true ↔ ∀ r ∈ p.records, Record.wf p.records.length r = true :=
  List.all_eq_true

end Sys2Proof
end

section
/-!
PROOFS. The loaders: when a word program is accepted, and that a block without a program does nothing (30_encoding R93
R102, 70_reset R301).
-/

namespace Sys2Proof.Machine

/-! ## Words -/

/-- Every word is, at its own index, an instruction whose target is an index of the program (R77 R93). -/
def WordsAccepted (ws : List Code) : Prop :=
  ∀ (k : Nat) (w : Code), ws[k]? = some w → ∃ i, decode k w = .ok i ∧ i.targetOk ws.length = true

/-- A word load answers the reset state of the decoded program, or is refused; the first exactly when every word is
accepted and the launch is legal. -/
theorem loadWords_cases (l : Launch) (e : Engine) (ws : List Code) :
    (WordsAccepted ws ∧ l.legal ws.length = true ∧ ∃ is, decodeWordsFrom 0 ws = .ok is
        ∧ loadWords l e ws = .next (State.loaded l e { records := bindFrom 1 is, branchTable := [] }))
      ∨ ¬ (WordsAccepted ws ∧ l.legal ws.length = true) ∧ ∃ x, loadWords l e ws = .refused x := by
  cases hd : decodeWordsFrom 0 ws with
  | error x =>
    obtain ⟨k, w, why, hw, hk⟩ := decodeWordsFrom_error ws 0 x.1 x.2 hd
    refine .inr ⟨fun ⟨ha, _⟩ => ?_, .notAnInstruction x.1 x.2, by rw [loadWords, hd]⟩
    obtain ⟨i, hi, _⟩ := ha k w hw
    rw [Nat.zero_add, hi] at hk
    cases hk
  | ok is =>
    obtain ⟨hlen, hdec⟩ := decodeWordsFrom_ok ws 0 is hd
    have haccepted : WordsAccepted ws ↔ is.all (Instr.targetOk is.length) = true := by
      rw [List.all_eq_true, hlen]
      refine ⟨fun h i hi => ?_, fun h k w hw => ?_⟩
      · obtain ⟨k, hk, rfl⟩ := List.mem_iff_getElem.mp hi
        obtain ⟨j, hj, ht⟩ := h k ws[k] (List.getElem?_eq_getElem (hlen ▸ hk))
        obtain ⟨x, hx, hdx⟩ := hdec k ws[k] (List.getElem?_eq_getElem (hlen ▸ hk))
        rw [Nat.zero_add, hj] at hdx
        rw [List.getElem?_eq_getElem hk] at hx
        cases hdx
        cases hx
        exact ht
      · obtain ⟨x, hx, hdx⟩ := hdec k w hw
        exact ⟨x, Nat.zero_add k ▸ hdx, h x (List.mem_of_getElem? hx)⟩
    rw [haccepted, loadWords, hd]
    by_cases hall : is.all (Instr.targetOk is.length) = true
    · have hrecords : (bindFrom 1 is).length = ws.length := (bindFrom_length is 1).trans hlen
      by_cases hl : l.legal ws.length = true
      · exact .inl ⟨hall, hl, is, rfl, (if_pos hall).trans (if_pos (hrecords ▸ hl))⟩
      · exact .inr ⟨fun h => hl h.2, .illegalLaunch, (if_pos hall).trans (if_neg (hrecords ▸ hl))⟩
    · exact .inr ⟨fun h => hall h.1, .labelOutsideProgram, if_neg hall⟩

/-- An instruction read from a word has its immediates in order. -/
theorem immediatesOk_of_decode {own : Nat} {w : Code} {i : Instr} (h : decode own w = .ok i) : i.immediatesOk = true :=
  ((encodable_iff own i).mp (encode_eq_some_iff.mp (encode_of_decode h)).1).1

/-- The records of accepted words: one per word, each the instruction read from it on its line. -/
theorem decodedRecord_of_word {ws : List Code} {is : List Instr} (hd : decodeWordsFrom 0 ws = .ok is) {k : Nat} {w : Code}
    (hw : ws[k]? = some w) : ∃ i, decode k w = .ok i ∧ (bindFrom 1 is)[k]? = some (Record.bind i (k + 1)) := by
  obtain ⟨i, hi, hdi⟩ := (decodeWordsFrom_ok ws 0 is hd).2 k w hw
  exact ⟨i, Nat.zero_add k ▸ hdi, by rw [bindFrom_getElem?, hi, Nat.add_comm]; rfl⟩

/-- Accepted words make a well-formed program (R102). -/
theorem programWf_of_words {ws : List Code} {is : List Instr} (ha : WordsAccepted ws)
    (hd : decodeWordsFrom 0 ws = .ok is) : Program.wf { records := bindFrom 1 is, branchTable := [] } = true := by
  have hlen : (bindFrom 1 is).length = ws.length := (bindFrom_length is 1).trans (decodeWordsFrom_ok ws 0 is hd).1
  refine (programWf_iff _).mpr fun r hr => ?_
  obtain ⟨k, hrk⟩ := List.mem_iff_getElem?.mp hr
  obtain ⟨hk, -⟩ := List.getElem?_eq_some_iff.mp hrk
  have hw := List.getElem?_eq_getElem (hlen ▸ hk)
  obtain ⟨i, hdi, hi⟩ := decodedRecord_of_word hd hw
  obtain ⟨j, hdj, ht⟩ := ha k _ hw
  cases hdi.symm.trans hdj
  cases hrk.symm.trans hi
  exact (recordWf_iff _ _).mpr ⟨immediatesOk_of_decode hdi, (targetOk_iff _ _).mp (hlen ▸ ht), rfl⟩

/-! ## A state that nothing moves -/

/-- A state that steps to itself stays for good. -/
theorem steps_of_step_self {s : State} (h : step s = .next s) (k : Nat) : steps k s = .next s := by
  induction k with
  | zero => rfl
  | succ k ih => rw [steps, h]; exact ih

/-- A state that neither engine moves stays for good. -/
theorem steps_of_still {s : State} (he : executeInstruction s = .next s) (hc : clock s = .next s) (k : Nat) :
    steps k s = .next s := by
  refine steps_of_step_self ?_ k
  rw [step]
  cases s.engine
  · exact he
  · exact hc

end Sys2Proof.Machine
end

section
/-!
PROOFS. The lexical forms of a source line: how lines and tokens split, and the texts that are registers, immediates and
label names (30_encoding R78 R95).
-/

namespace Sys2Proof.Machine

/-! ## Lines -/

/-- Characters before the next newline join the line under way. -/
theorem linesFrom_append_of_no_newline {a : Text} (h : '\n' ∉ a) (current b : Text) :
    linesFrom current (a ++ b) = linesFrom (current ++ a) b := by
  induction a generalizing current with
  | nil => rw [List.append_nil, List.nil_append]
  | cons c cs ih =>
    obtain ⟨hc, hcs⟩ := not_or.mp (List.mem_cons.not.mp h)
    rw [List.cons_append, linesFrom, if_neg (by simpa using Ne.symm hc), ih hcs, List.append_assoc, List.singleton_append]

/-! ## Tokens -/

/-- A character inside a token: no blank and no punctuation. -/
def isPlain (c : Char) : Prop := c ∉ [' ', '\t', ',', '[', ']', ':']

theorem isPlain_iff (c : Char) : isPlain c ↔ isBlankChar c = false ∧ isPunctuation c = false := by
  simp [isPlain, isBlankChar, isPunctuation, and_assoc]

/-- Plain characters join the token under way. -/
theorem tokensFrom_append_of_plain {w : Text} (h : ∀ c ∈ w, isPlain c) (current b : Text) :
    tokensFrom current (w ++ b) = tokensFrom (current ++ w) b := by
  induction w generalizing current with
  | nil => rw [List.append_nil, List.nil_append]
  | cons c cs ih =>
    obtain ⟨hc, hcs⟩ := List.forall_mem_cons.mp h
    obtain ⟨hb, hp⟩ := (isPlain_iff c).mp hc
    rw [List.cons_append, tokensFrom, hb, hp, if_neg Bool.false_ne_true, if_neg Bool.false_ne_true, ih hcs,
      List.append_assoc, List.singleton_append]

theorem flushToken_append (current : Text) (ts us : List Text) :
    flushToken current (ts ++ us) = flushToken current ts ++ us := by
  unfold flushToken
  split <;> rfl

theorem flushToken_eq_append (current : Text) (ts : List Text) : flushToken current ts = flushToken current [] ++ ts :=
  flushToken_append current [] ts

/-- A character that is not plain ends the token under way, whatever the line began with. -/
theorem tokensFrom_append_separator (current a b : Text) {c : Char} (h : ¬ isPlain c) :
    tokensFrom current (a ++ c :: b)
      = tokensFrom current a ++ (if isBlankChar c then tokensFrom [] b else [c] :: tokensFrom [] b) := by
  induction a generalizing current with
  | nil =>
    rw [List.nil_append, tokensFrom, tokensFrom]
    split
    · exact flushToken_eq_append ..
    · have hp : isPunctuation c = true := by simpa [isPlain_iff, ‹¬ isBlankChar c = true›] using h
      rw [if_pos hp]
      exact flushToken_eq_append ..
  | cons x xs ih =>
    rw [List.cons_append, tokensFrom, tokensFrom]
    split
    · rw [ih, flushToken_append]
    · split
      · rw [ih, ← List.cons_append, flushToken_append]
      · exact ih _

theorem tokensOf_append_blank (a b : Text) {c : Char} (h : c ∈ [' ', '\t']) :
    tokensOf (a ++ c :: b) = tokensOf a ++ tokensOf b := by
  have hb : isBlankChar c = true := by simpa [isBlankChar] using h
  rw [tokensOf, tokensFrom_append_separator _ _ _ (by simp [isPlain_iff, hb]), if_pos hb]
  rfl

theorem tokensOf_append_punctuation (a b : Text) {c : Char} (h : c ∈ [',', '[', ']', ':']) :
    tokensOf (a ++ c :: b) = tokensOf a ++ [c] :: tokensOf b := by
  have hc : isBlankChar c = false ∧ isPunctuation c = true := by
    revert c
    simp [isBlankChar, isPunctuation]
  rw [tokensOf, tokensFrom_append_separator _ _ _ (by simp [isPlain_iff, hc]), if_neg (Bool.eq_false_iff.mp hc.1)]
  rfl

/-! ## Registers (R78) -/

/-- The six aliases of general registers (10_state R13). -/
def registerAliases : List (Text × Reg) :=
  [("XZR".toList, 31), ("SP".toList, 28), ("FP".toList, 29), ("LR".toList, 30), ("IP0".toList, 16), ("IP1".toList, 17)]

theorem indexBelow_eq_some {bound n : Nat} {r : Fin 32} : indexBelow bound n = some r ↔ r.val < bound ∧ n = r.val := by
  unfold indexBelow
  split
  · rw [Option.ite_none_right_eq_some, Option.some_inj, Fin.ext_iff]
    exact ⟨fun ⟨h, he⟩ => ⟨he ▸ h, he⟩, fun ⟨h, he⟩ => ⟨he ▸ h, he⟩⟩
  · exact ⟨nofun, fun ⟨_, he⟩ => absurd r.isLt (he ▸ ‹¬ n < 32›)⟩

/-- A register number below the bound, spelled by its decimal digits. -/
theorem readIndex_bind_indexBelow {bound : Nat} {ds : Text} {r : Fin 32} :
    (readIndex ds).bind (indexBelow bound) = some r ↔ r.val < bound ∧ ds = Nat.toDigits 10 r.val := by
  rw [Option.bind_eq_some_iff, ← readIndex_eq_some ds r.val r.isLt]
  constructor
  · rintro ⟨n, hn, h⟩
    obtain ⟨hb, rfl⟩ := indexBelow_eq_some.mp h
    exact ⟨hb, hn⟩
  · exact fun ⟨hb, hn⟩ => ⟨_, hn, indexBelow_eq_some.mpr ⟨hb, rfl⟩⟩

/-- A text outside the aliases is read as `X` and a number. -/
theorem readX_of_not_alias {w : Text} (h : ∀ q ∈ registerAliases, w ≠ q.1) (r : Reg) :
    readX w = some r ↔ r.val < 31 ∧ w = 'X' :: Nat.toDigits 10 r.val := by
  simp only [registerAliases, List.forall_mem_cons] at h
  obtain ⟨h₁, h₂, h₃, h₄, h₅, h₆, -⟩ := h
  unfold readX
  rw [if_neg h₁, if_neg h₂, if_neg h₃, if_neg h₄, if_neg h₅, if_neg h₆]
  split
  · rw [readIndex_bind_indexBelow, List.cons_inj_right]
  · rename_i hx
    exact ⟨nofun, fun ⟨_, hw⟩ => absurd hw (hx _)⟩

/-- The general registers are `X0` to `X30` and the aliases. -/
theorem readX_eq_some (w : Text) (r : Reg) :
    readX w = some r ↔ (r.val < 31 ∧ w = 'X' :: Nat.toDigits 10 r.val) ∨ (w, r) ∈ registerAliases := by
  by_cases h : ∃ q ∈ registerAliases, w = q.1
  · obtain ⟨q, hq, rfl⟩ := h
    revert q r
    decide
  · have hnot : (w, r) ∉ registerAliases := fun hm => h ⟨_, hm, rfl⟩
    rw [readX_of_not_alias (fun q hq he => h ⟨q, hq, he⟩), or_iff_left hnot]

theorem readFloat_eq_some (c : Char) (w : Text) (r : FReg) : readFloat c w = some r ↔ w = c :: Nat.toDigits 10 r.val := by
  cases w with
  | nil => simp [readFloat]
  | cons d ds =>
    rw [readFloat, Option.ite_none_right_eq_some, readIndex_bind_indexBelow, beq_iff_eq, List.cons.injEq]
    exact ⟨fun ⟨hd, _, hds⟩ => ⟨hd, hds⟩, fun ⟨hd, hds⟩ => ⟨hd, r.isLt, hds⟩⟩

/-! ## Immediates and label names (R95) -/

/-- A number read as an integer. -/
theorem bind_pure_cast (o : Option Nat) : (do let n ← o; pure (n : Int)) = o.map Int.ofNat := by
  cases o <;> rfl

/-- An immediate is `#`, an optional minus sign and decimal digits. -/
theorem readImmediate_eq_some (w : Text) (v : Int) :
    readImmediate w = some v ↔ ∃ (ds : Text) (n : Nat), readDecimal ds = some n
      ∧ ((w = '#' :: ds ∧ v = n) ∨ (w = '#' :: '-' :: ds ∧ v = -n)) := by
  have minus_no_digit (ds : Text) : readDecimal ('-' :: ds) = none := rfl
  unfold readImmediate
  split
  · rename_i ds
    rw [bind_pure_cast, Option.map_map, Option.map_eq_some_iff]
    constructor
    · rintro ⟨n, hn, rfl⟩
      exact ⟨ds, n, hn, .inr ⟨rfl, rfl⟩⟩
    · rintro ⟨ds', n, hn, ⟨hw, rfl⟩ | ⟨hw, rfl⟩⟩
      · cases hw
        cases hn
      · cases hw
        exact ⟨n, hn, rfl⟩
  · rename_i ds hds
    rw [bind_pure_cast, Option.map_map, Option.map_eq_some_iff]
    constructor
    · rintro ⟨n, hn, rfl⟩
      exact ⟨ds, n, hn, .inl ⟨rfl, rfl⟩⟩
    · rintro ⟨ds', n, hn, ⟨hw, rfl⟩ | ⟨hw, rfl⟩⟩
      · cases hw
        exact ⟨n, hn, rfl⟩
      · cases hw
        exact absurd rfl (hds ds')
  · rename_i hw
    refine ⟨nofun, ?_⟩
    rintro ⟨ds', n, hn, ⟨rfl, -⟩ | ⟨rfl, -⟩⟩
    · exact absurd rfl (hw ds')
    · exact absurd rfl (hw ('-' :: ds'))

theorem isLetter_iff (c : Char) : isLetter c = true ↔ ('a' ≤ c ∧ c ≤ 'z') ∨ ('A' ≤ c ∧ c ≤ 'Z') := by
  simp [isLetter]

theorem isDecimal_iff (c : Char) : isDecimal c = true ↔ '0' ≤ c ∧ c ≤ '9' := by simp [isDecimal]

/-- A label name is a letter or underscore, then letters, digits and underscores. -/
theorem isLabelName_iff (w : Text) : isLabelName w = true ↔ ∃ c cs, w = c :: cs
    ∧ (('a' ≤ c ∧ c ≤ 'z') ∨ ('A' ≤ c ∧ c ≤ 'Z') ∨ c = '_')
    ∧ ∀ x ∈ cs, ('a' ≤ x ∧ x ≤ 'z') ∨ ('A' ≤ x ∧ x ≤ 'Z') ∨ ('0' ≤ x ∧ x ≤ '9') ∨ x = '_' := by
  cases w with
  | nil => simp [isLabelName]
  | cons c cs => simp [isLabelName, isLetter_iff, isDecimal_iff, or_assoc]

end Sys2Proof.Machine
end

section
/-!
PROOFS. The parser, form by form: which tokens an operand form admits and the operands they give (30_encoding R77 R96).
-/

namespace Sys2Proof.Machine

/-! ## One token -/

theorem readToken_xReg {t : Text} {o : Option Operand} :
    readToken .xReg t = .ok o ↔ ∃ r, readX t = some r ∧ o = some (.reg r) := by
  rw [readToken]
  cases readX t <;> simp [eq_comm]

theorem readToken_sReg {t : Text} {o : Option Operand} :
    readToken .sReg t = .ok o ↔ ∃ r, readFloat 'S' t = some r ∧ o = some (.reg r) := by
  rw [readToken]
  cases readFloat 'S' t <;> simp [eq_comm]

theorem readToken_dReg {t : Text} {o : Option Operand} :
    readToken .dReg t = .ok o ↔ ∃ r, readFloat 'D' t = some r ∧ o = some (.reg r) := by
  rw [readToken]
  cases readFloat 'D' t <;> simp [eq_comm]

theorem readToken_immediate {t : Text} {o : Option Operand} :
    readToken .immediate t = .ok o ↔ ∃ v, readImmediate t = some v ∧ o = some (.imm v t) := by
  rw [readToken]
  cases readImmediate t <;> simp [eq_comm]

theorem readToken_labelName {t : Text} {o : Option Operand} :
    readToken .labelName t = .ok o ↔ isLabelName t = true ∧ o = some (.label t) := by
  rw [readToken]
  split <;> simp [*, eq_comm]

theorem readToken_punct {c : Char} {t : Text} {o : Option Operand} :
    readToken (.punct c) t = .ok o ↔ t = [c] ∧ o = none := by
  rw [readToken]
  split <;> simp [*, eq_comm]

theorem readToken_spelled {word t : Text} {o : Option Operand} :
    readToken (.spelled word) t = .ok o ↔ t = word ∧ o = none := by
  rw [readToken]
  by_cases h : t = word <;> simp [h, eq_comm (a := none)]

/-! ## A token sequence -/

theorem matchTokens_nil_eq_ok {ts rest : List Text} {os : List Operand} :
    matchTokens [] ts = .ok (os, rest) ↔ os = [] ∧ ts = rest := by
  simp [matchTokens, eq_comm]

/-- A sequence matches exactly when its first token does and the rest does. -/
theorem matchTokens_cons_eq_ok {e : Alternative} {es : List Alternative} {ts rest : List Text} {os : List Operand} :
    matchTokens (e :: es) ts = .ok (os, rest) ↔ ∃ t o ts' os', readToken e t = .ok o
      ∧ matchTokens es ts' = .ok (os', rest) ∧ ts = t :: ts' ∧ os = o.toList ++ os' := by
  constructor
  · intro h
    obtain ⟨t, ts', o, os', hts, ho, hm, hos⟩ := matchTokens_cons_ok h
    exact ⟨t, o, ts', os', ho, hm, hts, hos⟩
  · rintro ⟨t, o, ts', os', ho, hm, rfl, rfl⟩
    simp only [matchTokens, ho, hm]

/-- A form that is no wide move is parsed when its sequence matches all tokens. -/
theorem parseOperands_eq_ok {k : LetterCase} {form : OperandForm} {ts : List Text} {os : List Operand}
    (h : ∀ f, form ≠ .wide f) : parseOperands k form ts = .ok os ↔ matchTokens form.expected ts = .ok (os, []) := by
  rw [parseOperands]
  rcases matchTokens form.expected ts with x | ⟨os', _ | ⟨extra, rest⟩⟩
  · simp
  · cases form with
    | wide f => exact absurd rfl (h f)
    | _ => simp
  · cases form with
    | wide f => exact absurd rfl (h f)
    | _ => simp

/-! ## The operand forms -/

section
variable {k : LetterCase} {ts : List Text} {os : List Operand}

theorem parseOperands_threeRegs {f : Reg → Reg → Reg → Instr} : parseOperands k (.threeRegs f) ts = .ok os
    ↔ ∃ a d b n c m, readX a = some d ∧ readX b = some n ∧ readX c = some m ∧ ts = [a, [','], b, [','], c]
      ∧ os = [.reg d, .reg n, .reg m] := by
  rw [parseOperands_eq_ok (by simp)]
  simp [OperandForm.expected, matchTokens_cons_eq_ok, matchTokens_nil_eq_ok, and_assoc, readToken_xReg, readToken_punct]

theorem parseOperands_twoRegs {f : Reg → Reg → Instr} : parseOperands k (.twoRegs f) ts = .ok os
    ↔ ∃ a d b n, readX a = some d ∧ readX b = some n ∧ ts = [a, [','], b] ∧ os = [.reg d, .reg n] := by
  rw [parseOperands_eq_ok (by simp)]
  simp [OperandForm.expected, matchTokens_cons_eq_ok, matchTokens_nil_eq_ok, and_assoc, readToken_xReg, readToken_punct]

theorem parseOperands_oneReg {f : Reg → Instr} : parseOperands k (.oneReg f) ts = .ok os
    ↔ ∃ a n, readX a = some n ∧ ts = [a] ∧ os = [.reg n] := by
  rw [parseOperands_eq_ok (by simp)]
  simp [OperandForm.expected, matchTokens_cons_eq_ok, matchTokens_nil_eq_ok, and_assoc, readToken_xReg]

theorem parseOperands_twoRegsImm {p : Permitted} {f : Reg → Reg → Nat → Instr} :
    parseOperands k (.twoRegsImm p f) ts = .ok os
    ↔ ∃ a d b n c v, readX a = some d ∧ readX b = some n ∧ readImmediate c = some v ∧ ts = [a, [','], b, [','], c]
      ∧ os = [.reg d, .reg n, .imm v c] := by
  rw [parseOperands_eq_ok (by simp)]
  simp [OperandForm.expected, matchTokens_cons_eq_ok, matchTokens_nil_eq_ok, and_assoc, readToken_xReg, readToken_punct,
    readToken_immediate]

theorem parseOperands_oneRegImm {p : Permitted} {f : Reg → Nat → Instr} : parseOperands k (.oneRegImm p f) ts = .ok os
    ↔ ∃ a n c v, readX a = some n ∧ readImmediate c = some v ∧ ts = [a, [','], c] ∧ os = [.reg n, .imm v c] := by
  rw [parseOperands_eq_ok (by simp)]
  simp [OperandForm.expected, matchTokens_cons_eq_ok, matchTokens_nil_eq_ok, and_assoc, readToken_xReg, readToken_punct,
    readToken_immediate]

/-- `[Xn, #imm]` after a register, the sequence of LDXR as of the ordinary accesses. -/
theorem matchTokens_memory : matchTokens (OperandForm.memory .ldur).expected ts = .ok (os, [])
    ↔ ∃ a t b n c v, readX a = some t ∧ readX b = some n ∧ readImmediate c = some v
      ∧ ts = [a, [','], ['['], b, [','], c, [']']] ∧ os = [.reg t, .reg n, .imm v c] := by
  simp [OperandForm.expected, matchTokens_cons_eq_ok, matchTokens_nil_eq_ok, and_assoc, readToken_xReg, readToken_punct,
    readToken_immediate]

theorem parseOperands_memory {f : Reg → Reg → Int → Instr} : parseOperands k (.memory f) ts = .ok os
    ↔ ∃ a t b n c v, readX a = some t ∧ readX b = some n ∧ readImmediate c = some v
      ∧ ts = [a, [','], ['['], b, [','], c, [']']] ∧ os = [.reg t, .reg n, .imm v c] :=
  (parseOperands_eq_ok (by simp)).trans matchTokens_memory

theorem parseOperands_loadExclusive {f : Reg → Reg → Instr} : parseOperands k (.loadExclusive f) ts = .ok os
    ↔ ∃ a t b n c v, readX a = some t ∧ readX b = some n ∧ readImmediate c = some v
      ∧ ts = [a, [','], ['['], b, [','], c, [']']] ∧ os = [.reg t, .reg n, .imm v c] :=
  (parseOperands_eq_ok (by simp)).trans matchTokens_memory

theorem parseOperands_storeExclusive {f : Reg → Reg → Reg → Instr} : parseOperands k (.storeExclusive f) ts = .ok os
    ↔ ∃ a t b st c n e v, readX a = some t ∧ readX b = some st ∧ readX c = some n ∧ readImmediate e = some v
      ∧ ts = [a, [','], b, [','], ['['], c, [','], e, [']']] ∧ os = [.reg t, .reg st, .reg n, .imm v e] := by
  rw [parseOperands_eq_ok (by simp)]
  simp [OperandForm.expected, matchTokens_cons_eq_ok, matchTokens_nil_eq_ok, and_assoc, readToken_xReg, readToken_punct,
    readToken_immediate]

theorem parseOperands_toLabel {f : Nat → Instr} : parseOperands k (.toLabel f) ts = .ok os
    ↔ ∃ l, isLabelName l = true ∧ ts = [l] ∧ os = [.label l] := by
  rw [parseOperands_eq_ok (by simp)]
  simp [OperandForm.expected, matchTokens_cons_eq_ok, matchTokens_nil_eq_ok, and_assoc, readToken_labelName]

theorem parseOperands_regToLabel {f : Reg → Nat → Instr} : parseOperands k (.regToLabel f) ts = .ok os
    ↔ ∃ a t l, readX a = some t ∧ isLabelName l = true ∧ ts = [a, [','], l] ∧ os = [.reg t, .label l] := by
  rw [parseOperands_eq_ok (by simp)]
  simp [OperandForm.expected, matchTokens_cons_eq_ok, matchTokens_nil_eq_ok, and_assoc, readToken_xReg, readToken_punct,
    readToken_labelName]

theorem parseOperands_singles {f : FReg → FReg → Instr} : parseOperands k (.singles f) ts = .ok os
    ↔ ∃ a n b m, readFloat 'S' a = some n ∧ readFloat 'S' b = some m ∧ ts = [a, [','], b] ∧ os = [.reg n, .reg m] := by
  rw [parseOperands_eq_ok (by simp)]
  simp [OperandForm.expected, matchTokens_cons_eq_ok, matchTokens_nil_eq_ok, and_assoc, readToken_sReg, readToken_punct]

theorem parseOperands_doubles {f : FReg → FReg → Instr} : parseOperands k (.doubles f) ts = .ok os
    ↔ ∃ a n b m, readFloat 'D' a = some n ∧ readFloat 'D' b = some m ∧ ts = [a, [','], b] ∧ os = [.reg n, .reg m] := by
  rw [parseOperands_eq_ok (by simp)]
  simp [OperandForm.expected, matchTokens_cons_eq_ok, matchTokens_nil_eq_ok, and_assoc, readToken_dReg, readToken_punct]

/-- Nothing after the immediate of a wide move reads as shift 0, else `, LSL #q` gives the shift (R96). -/
theorem parseWideTail_eq_ok {base : List Operand} : parseWideTail k base ts = .ok os
    ↔ (ts = [] ∧ os = base ++ [.imm 0 "#0".toList])
      ∨ ∃ rest tail, ts = [','] :: rest ∧ matchTokens (wideTail k) rest = .ok (tail, []) ∧ os = base ++ tail := by
  constructor
  · intro h
    rcases parseWideTail_cases k base ts with ⟨hts, h'⟩ | ⟨rest, tail, hts, hm, h'⟩ | ⟨_, _, _, _, h'⟩
      | ⟨_, _, _, _, _, _, h'⟩ | ⟨_, _, _, _, h'⟩
    all_goals cases h'.symm.trans h
    · exact .inl ⟨hts, rfl⟩
    · exact .inr ⟨rest, tail, hts, hm, rfl⟩
  · rintro (⟨rfl, rfl⟩ | ⟨rest, tail, rfl, hm, rfl⟩)
    · rfl
    · rw [parseWideTail, if_pos rfl, hm]

/-- A wide move is parsed when its sequence matches and its tail follows. -/
theorem parseOperands_wide_eq {f : Reg → Nat → Nat → Instr} : parseOperands k (.wide f) ts = .ok os
    ↔ ∃ base rest, matchTokens (OperandForm.wide f).expected ts = .ok (base, rest)
      ∧ parseWideTail k base rest = .ok os := by
  rw [parseOperands]
  rcases matchTokens (OperandForm.wide f).expected ts with x | ⟨base, rest⟩ <;> simp

theorem matchTokens_wide {f : Reg → Nat → Nat → Instr} {rest : List Text} :
    matchTokens (OperandForm.wide f).expected ts = .ok (os, rest) ↔ ∃ a d b v, readX a = some d ∧ readImmediate b = some v
      ∧ ts = a :: [','] :: b :: rest ∧ os = [.reg d, .imm v b] := by
  simp [OperandForm.expected, matchTokens_cons_eq_ok, matchTokens_nil_eq_ok, and_assoc, readToken_xReg, readToken_punct,
    readToken_immediate]

theorem matchTokens_wideTail : matchTokens (wideTail k) ts = .ok (os, [])
    ↔ ∃ c q, readImmediate c = some q ∧ ts = [inCase k "LSL".toList, c] ∧ os = [.imm q c] := by
  simp [wideTail, matchTokens_cons_eq_ok, matchTokens_nil_eq_ok, readToken_spelled, readToken_immediate]

theorem parseOperands_wide {f : Reg → Nat → Nat → Instr} : parseOperands k (.wide f) ts = .ok os
    ↔ ∃ a d b v, readX a = some d ∧ readImmediate b = some v
      ∧ ((ts = [a, [','], b] ∧ os = [.reg d, .imm v b, .imm 0 "#0".toList])
        ∨ ∃ c q, readImmediate c = some q ∧ ts = [a, [','], b, [','], inCase k "LSL".toList, c]
          ∧ os = [.reg d, .imm v b, .imm q c]) := by
  simp only [parseOperands_wide_eq, parseWideTail_eq_ok, matchTokens_wide, matchTokens_wideTail]
  constructor
  · rintro ⟨_, _, ⟨a, d, b, v, ha, hb, rfl, rfl⟩, ⟨rfl, rfl⟩ | ⟨_, _, rfl, ⟨c, q, hc, rfl, rfl⟩, rfl⟩⟩
    · exact ⟨a, d, b, v, ha, hb, .inl ⟨rfl, rfl⟩⟩
    · exact ⟨a, d, b, v, ha, hb, .inr ⟨c, q, hc, rfl, rfl⟩⟩
  · rintro ⟨a, d, b, v, ha, hb, ⟨rfl, rfl⟩ | ⟨c, q, hc, rfl, rfl⟩⟩
    · exact ⟨_, _, ⟨a, d, b, v, ha, hb, rfl, rfl⟩, .inl ⟨rfl, rfl⟩⟩
    · exact ⟨_, _, ⟨a, d, b, v, ha, hb, rfl, rfl⟩, .inr ⟨_, _, rfl, ⟨c, q, hc, rfl, rfl⟩, rfl⟩⟩

end

end Sys2Proof.Machine
end

section
/-!
PROOFS. From operands to instructions: each operand form gives the instruction its tokens spell (30_encoding R77
R79 R80 R96 to R99).
-/

namespace Sys2Proof.Machine

/-! ## Immediates and labels of a parsed line -/

theorem map_checkImmediate_eq_ok {α : Type} {p : Permitted} {v : Int} {t : Text} {g : Int → α} {x : α} :
    (checkImmediate p v t).map g = .ok x ↔ p.allows v = true ∧ g v = x := by
  rw [checkImmediate]
  split <;> simp [Except.map, *]

theorem map_resolveLabel_eq_ok {α : Type} {table : List (Text × Nat)} {name : Text} {g : Nat → α} {x : α} :
    (resolveLabel table name).map g = .ok x ↔ ∃ target, table.lookup name = some target ∧ g target = x := by
  rw [resolveLabel]
  split <;> simp [Except.map, *]

/-- A permitted value of a range from 0 on is a natural number. -/
theorem range_allows_iff {max : Nat} {v : Int} :
    (Permitted.range 0 max).allows v = true ↔ ∃ n : Nat, v = Int.ofNat n ∧ n ≤ max := by
  rw [Permitted.allows, Bool.and_eq_true, decide_eq_true_iff, decide_eq_true_iff]
  constructor
  · exact fun ⟨hlo, hhi⟩ => ⟨v.toNat, (Int.toNat_of_nonneg hlo).symm, by omega⟩
  · rintro ⟨n, rfl, hn⟩
    exact ⟨Int.natCast_nonneg n, Int.ofNat_le.mpr hn⟩

theorem quadrant_allows_iff {v : Int} :
    permittedQuadrant.allows v = true ↔ ∃ q : Nat, v = Int.ofNat q ∧ q ∈ [0, 16, 32, 48] := by
  constructor
  · intro h
    have hv : v = 0 ∨ v = 16 ∨ v = 32 ∨ v = 48 := by simpa [permittedQuadrant, Permitted.allows] using h
    exact ⟨v.toNat, (Int.toNat_of_nonneg (by omega)).symm, by simp; omega⟩
  · rintro ⟨q, rfl, hq⟩
    exact (permittedQuadrant_allows q).mpr hq

/-! ## The operand forms -/

/-- The tokens are operands of the form that give the instruction. -/
def Compiles (table : List (Text × Nat)) (k : LetterCase) (form : OperandForm) (ts : List Text) (i : Instr) : Prop :=
  ∃ os, parseOperands k form ts = .ok os ∧ instructionOf table { form := form, operands := os } = .ok i

section
variable {table : List (Text × Nat)} {k : LetterCase} {ts : List Text} {i : Instr}

theorem compiles_threeRegs {f : Reg → Reg → Reg → Instr} : Compiles table k (.threeRegs f) ts i ↔ SpellsThree f ts i := by
  constructor
  · rintro ⟨os, hp, hi⟩
    obtain ⟨a, d, b, n, c, m, ha, hb, hc, rfl, rfl⟩ := parseOperands_threeRegs.mp hp
    cases hi
    exact ⟨a, b, c, d, n, m, rfl, ha, hb, hc, rfl⟩
  · rintro ⟨a, b, c, d, n, m, rfl, ha, hb, hc, rfl⟩
    exact ⟨_, parseOperands_threeRegs.mpr ⟨a, d, b, n, c, m, ha, hb, hc, rfl, rfl⟩, rfl⟩

theorem compiles_twoRegs {f : Reg → Reg → Instr} : Compiles table k (.twoRegs f) ts i ↔ SpellsTwo f ts i := by
  constructor
  · rintro ⟨os, hp, hi⟩
    obtain ⟨a, d, b, n, ha, hb, rfl, rfl⟩ := parseOperands_twoRegs.mp hp
    cases hi
    exact ⟨a, b, d, n, rfl, ha, hb, rfl⟩
  · rintro ⟨a, b, d, n, rfl, ha, hb, rfl⟩
    exact ⟨_, parseOperands_twoRegs.mpr ⟨a, d, b, n, ha, hb, rfl, rfl⟩, rfl⟩

theorem compiles_oneReg {f : Reg → Instr} :
    Compiles table k (.oneReg f) ts i ↔ ∃ a n, ts = [a] ∧ readX a = some n ∧ i = f n := by
  constructor
  · rintro ⟨os, hp, hi⟩
    obtain ⟨a, n, ha, rfl, rfl⟩ := parseOperands_oneReg.mp hp
    cases hi
    exact ⟨a, n, rfl, ha, rfl⟩
  · rintro ⟨a, n, rfl, ha, rfl⟩
    exact ⟨_, parseOperands_oneReg.mpr ⟨a, n, ha, rfl, rfl⟩, rfl⟩

theorem compiles_twoRegsImm {max : Nat} {f : Reg → Reg → Nat → Instr} :
    Compiles table k (.twoRegsImm (.range 0 max) f) ts i ↔ SpellsTwoImm max f ts i := by
  constructor
  · rintro ⟨os, hp, hi⟩
    obtain ⟨a, d, b, n, c, v, ha, hb, hc, rfl, rfl⟩ := parseOperands_twoRegsImm.mp hp
    obtain ⟨hv, rfl⟩ := map_checkImmediate_eq_ok.mp hi
    obtain ⟨imm, rfl, hle⟩ := range_allows_iff.mp hv
    exact ⟨a, b, c, d, n, imm, rfl, ha, hb, hc, hle, rfl⟩
  · rintro ⟨a, b, c, d, n, imm, rfl, ha, hb, hc, hle, rfl⟩
    exact ⟨_, parseOperands_twoRegsImm.mpr ⟨a, d, b, n, c, imm, ha, hb, hc, rfl, rfl⟩,
      map_checkImmediate_eq_ok.mpr ⟨range_allows_iff.mpr ⟨imm, rfl, hle⟩, rfl⟩⟩

theorem compiles_oneRegImm {f : Reg → Nat → Instr} :
    Compiles table k (.oneRegImm permittedImm12 f) ts i ↔ SpellsOneImm f ts i := by
  constructor
  · rintro ⟨os, hp, hi⟩
    obtain ⟨a, n, c, v, ha, hc, rfl, rfl⟩ := parseOperands_oneRegImm.mp hp
    obtain ⟨hv, rfl⟩ := map_checkImmediate_eq_ok.mp hi
    obtain ⟨imm, rfl, hle⟩ := range_allows_iff.mp hv
    exact ⟨a, c, n, imm, rfl, ha, hc, hle, rfl⟩
  · rintro ⟨a, c, n, imm, rfl, ha, hc, hle, rfl⟩
    exact ⟨_, parseOperands_oneRegImm.mpr ⟨a, n, c, imm, ha, hc, rfl, rfl⟩,
      map_checkImmediate_eq_ok.mpr ⟨range_allows_iff.mpr ⟨imm, rfl, hle⟩, rfl⟩⟩

/-- A wide move's instruction, its value and its shift both in order. -/
theorem instructionOf_wide_eq_ok {f : Reg → Nat → Nat → Instr} {d : Reg} {v w : Int} {t u : Text} :
    instructionOf table { form := .wide f, operands := [.reg d, .imm v t, .imm w u] } = .ok i
      ↔ permittedWide.allows v = true ∧ permittedQuadrant.allows w = true ∧ f d v.toNat w.toNat = i := by
  rw [instructionOf]
  by_cases hv : permittedWide.allows v = true
  · simp only [checkImmediate, hv, if_true, true_and]
    exact map_checkImmediate_eq_ok
  · simp [checkImmediate, hv]

theorem compiles_wide {f : Reg → Nat → Nat → Instr} : Compiles table k (.wide f) ts i ↔ SpellsWide k f ts i := by
  constructor
  · rintro ⟨os, hp, hi⟩
    obtain ⟨a, d, b, v, ha, hb, ⟨rfl, rfl⟩ | ⟨c, q, hc, rfl, rfl⟩⟩ := parseOperands_wide.mp hp
    all_goals
      obtain ⟨hv, hw, rfl⟩ := instructionOf_wide_eq_ok.mp hi
      obtain ⟨imm, rfl, hle⟩ := range_allows_iff.mp hv
    · exact ⟨a, b, d, imm, ha, hb, hle, .inl ⟨rfl, rfl⟩⟩
    · obtain ⟨q, rfl, hq⟩ := quadrant_allows_iff.mp hw
      exact ⟨a, b, d, imm, ha, hb, hle, .inr ⟨c, q, rfl, hc, hq, rfl⟩⟩
  · rintro ⟨a, b, d, imm, ha, hb, hle, ⟨rfl, rfl⟩ | ⟨c, q, rfl, hc, hq, rfl⟩⟩
    · exact ⟨_, parseOperands_wide.mpr ⟨a, d, b, imm, ha, hb, .inl ⟨rfl, rfl⟩⟩,
        instructionOf_wide_eq_ok.mpr ⟨range_allows_iff.mpr ⟨imm, rfl, hle⟩, rfl, rfl⟩⟩
    · exact ⟨_, parseOperands_wide.mpr ⟨a, d, b, imm, ha, hb, .inr ⟨c, q, hc, rfl, rfl⟩⟩,
        instructionOf_wide_eq_ok.mpr ⟨range_allows_iff.mpr ⟨imm, rfl, hle⟩, quadrant_allows_iff.mpr ⟨q, rfl, hq⟩, rfl⟩⟩

theorem compiles_memory {f : Reg → Reg → Int → Instr} :
    Compiles table k (.memory f) ts i ↔ SpellsMemory (-256) 255 f ts i := by
  constructor
  · rintro ⟨os, hp, hi⟩
    obtain ⟨a, t, b, n, c, off, ha, hb, hc, rfl, rfl⟩ := parseOperands_memory.mp hp
    obtain ⟨hv, rfl⟩ := map_checkImmediate_eq_ok.mp hi
    obtain ⟨hlo, hhi⟩ := (permittedOffset_allows off).mp hv
    exact ⟨a, b, c, t, n, off, rfl, ha, hb, hc, hlo, hhi, rfl⟩
  · rintro ⟨a, b, c, t, n, off, rfl, ha, hb, hc, hlo, hhi, rfl⟩
    exact ⟨_, parseOperands_memory.mpr ⟨a, t, b, n, c, off, ha, hb, hc, rfl, rfl⟩,
      map_checkImmediate_eq_ok.mpr ⟨(permittedOffset_allows off).mpr ⟨hlo, hhi⟩, rfl⟩⟩

theorem compiles_loadExclusive {f : Reg → Reg → Instr} :
    Compiles table k (.loadExclusive f) ts i ↔ SpellsMemory 0 0 (fun t n _ => f t n) ts i := by
  constructor
  · rintro ⟨os, hp, hi⟩
    obtain ⟨a, t, b, n, c, off, ha, hb, hc, rfl, rfl⟩ := parseOperands_loadExclusive.mp hp
    obtain ⟨hv, rfl⟩ := map_checkImmediate_eq_ok.mp hi
    cases (permittedExclusive_allows off).mp hv
    exact ⟨a, b, c, t, n, 0, rfl, ha, hb, hc, le_refl _, le_refl _, rfl⟩
  · rintro ⟨a, b, c, t, n, off, rfl, ha, hb, hc, hlo, hhi, rfl⟩
    exact ⟨_, parseOperands_loadExclusive.mpr ⟨a, t, b, n, c, off, ha, hb, hc, rfl, rfl⟩,
      map_checkImmediate_eq_ok.mpr ⟨(permittedExclusive_allows off).mpr (le_antisymm hhi hlo), rfl⟩⟩

theorem compiles_storeExclusive {f : Reg → Reg → Reg → Instr} :
    Compiles table k (.storeExclusive f) ts i ↔ SpellsStoreExclusive f ts i := by
  constructor
  · rintro ⟨os, hp, hi⟩
    obtain ⟨a, t, b, st, c, n, e, v, ha, hb, hc, he, rfl, rfl⟩ := parseOperands_storeExclusive.mp hp
    obtain ⟨hv, rfl⟩ := map_checkImmediate_eq_ok.mp hi
    cases (permittedExclusive_allows v).mp hv
    exact ⟨a, b, c, e, t, st, n, rfl, ha, hb, hc, he, rfl⟩
  · rintro ⟨a, b, c, e, t, st, n, rfl, ha, hb, hc, he, rfl⟩
    exact ⟨_, parseOperands_storeExclusive.mpr ⟨a, t, b, st, c, n, e, 0, ha, hb, hc, he, rfl, rfl⟩, rfl⟩

theorem compiles_toLabel {f : Nat → Instr} : Compiles table k (.toLabel f) ts i
    ↔ ∃ l target, ts = [l] ∧ (isLabelName l = true ∧ table.lookup l = some target) ∧ i = f target := by
  constructor
  · rintro ⟨os, hp, hi⟩
    obtain ⟨l, hl, rfl, rfl⟩ := parseOperands_toLabel.mp hp
    obtain ⟨target, ht, rfl⟩ := map_resolveLabel_eq_ok.mp hi
    exact ⟨l, target, rfl, ⟨hl, ht⟩, rfl⟩
  · rintro ⟨l, target, rfl, ⟨hl, ht⟩, rfl⟩
    exact ⟨_, parseOperands_toLabel.mpr ⟨l, hl, rfl, rfl⟩, map_resolveLabel_eq_ok.mpr ⟨target, ht, rfl⟩⟩

theorem compiles_regToLabel {f : Reg → Nat → Instr} : Compiles table k (.regToLabel f) ts i
    ↔ ∃ a l t target, ts = [a, [','], l] ∧ readX a = some t ∧ (isLabelName l = true ∧ table.lookup l = some target)
      ∧ i = f t target := by
  constructor
  · rintro ⟨os, hp, hi⟩
    obtain ⟨a, t, l, ha, hl, rfl, rfl⟩ := parseOperands_regToLabel.mp hp
    obtain ⟨target, ht, rfl⟩ := map_resolveLabel_eq_ok.mp hi
    exact ⟨a, l, t, target, rfl, ha, ⟨hl, ht⟩, rfl⟩
  · rintro ⟨a, l, t, target, rfl, ha, ⟨hl, ht⟩, rfl⟩
    exact ⟨_, parseOperands_regToLabel.mpr ⟨a, t, l, ha, hl, rfl, rfl⟩, map_resolveLabel_eq_ok.mpr ⟨target, ht, rfl⟩⟩

theorem compiles_singles {f : FReg → FReg → Instr} : Compiles table k (.singles f) ts i
    ↔ ∃ a b n m, ts = [a, [','], b] ∧ readFloat 'S' a = some n ∧ readFloat 'S' b = some m ∧ i = f n m := by
  constructor
  · rintro ⟨os, hp, hi⟩
    obtain ⟨a, n, b, m, ha, hb, rfl, rfl⟩ := parseOperands_singles.mp hp
    cases hi
    exact ⟨a, b, n, m, rfl, ha, hb, rfl⟩
  · rintro ⟨a, b, n, m, rfl, ha, hb, rfl⟩
    exact ⟨_, parseOperands_singles.mpr ⟨a, n, b, m, ha, hb, rfl, rfl⟩, rfl⟩

theorem compiles_doubles {f : FReg → FReg → Instr} : Compiles table k (.doubles f) ts i
    ↔ ∃ a b n m, ts = [a, [','], b] ∧ readFloat 'D' a = some n ∧ readFloat 'D' b = some m ∧ i = f n m := by
  constructor
  · rintro ⟨os, hp, hi⟩
    obtain ⟨a, n, b, m, ha, hb, rfl, rfl⟩ := parseOperands_doubles.mp hp
    cases hi
    exact ⟨a, b, n, m, rfl, ha, hb, rfl⟩
  · rintro ⟨a, b, n, m, rfl, ha, hb, rfl⟩
    exact ⟨_, parseOperands_doubles.mpr ⟨a, n, b, m, ha, hb, rfl, rfl⟩, rfl⟩

end

end Sys2Proof.Machine
end

section
/-!
PROOFS. The rows of R77 as the assembler has them: each mnemonic's operand form spells what its row says, and the other
way round; a line is parsed by its label, its mnemonic and its operands (30_encoding R72 R74 R75 R77 R95 to R99).
-/

namespace Sys2Proof.Machine

/-! ## The rows -/

section
variable {table : List (Text × Nat)} {lines : List Text} {k : LetterCase} {ts : List Text} {i : Instr}

/-- What a mnemonic's operands compile to is what its row spells, when the table's labels are the text's. -/
theorem spells_of_compiles (hlabels : ∀ l target, table.lookup l = some target → LabelAt lines l target)
    (m : SourceMnemonic) (h : Compiles table k (sourceFormOf m) ts i) : Spells lines k m.spelling ts i := by
  unfold Spells
  cases m with
  | real m =>
    cases m with
    | add | adds | sub | subs | and | ands | orr | eor =>
      exact .inl ⟨(_, _), by simp, rfl, compiles_threeRegs.mp h⟩
    | addi | addis | subi | subis | andi | andis | orri | eori =>
      right
      exact .inl ⟨(_, _), by simp, rfl, compiles_twoRegsImm.mp h⟩
    | lsl | lsr =>
      iterate 2 right
      exact .inl ⟨(_, _), by simp, rfl, compiles_twoRegsImm.mp h⟩
    | movz | movk =>
      iterate 3 right
      exact .inl ⟨(_, _), by simp, rfl, compiles_wide.mp h⟩
    | ldur | ldursw | ldurh | ldurb | stur | sturw | sturh | sturb =>
      iterate 4 right
      exact .inl ⟨(_, _), by simp, rfl, compiles_memory.mp h⟩
    | ldxr =>
      iterate 5 right
      exact .inl ⟨rfl, compiles_loadExclusive.mp h⟩
    | stxr =>
      iterate 6 right
      exact .inl ⟨rfl, compiles_storeExclusive.mp h⟩
    | b | bl | bEq | bNe | bHs | bLo | bHi | bLs | bGe | bLt | bGt | bLe | bMi | bPl | bVs | bVc =>
      obtain ⟨l, target, hts, ⟨-, hl⟩, hi⟩ := compiles_toLabel.mp h
      iterate 7 right
      exact .inl ⟨(_, _), by simp, rfl, l, target, hts, hlabels l target hl, hi⟩
    | br =>
      iterate 8 right
      exact .inl ⟨rfl, compiles_oneReg.mp h⟩
    | cbz | cbnz =>
      obtain ⟨a, l, t, target, hts, ha, ⟨-, hl⟩, hi⟩ := compiles_regToLabel.mp h
      iterate 9 right
      exact .inl ⟨(_, _), by simp, rfl, a, l, t, target, hts, ha, hlabels l target hl, hi⟩
    | fcmps =>
      iterate 10 right
      exact .inl ⟨(_, 'S', _), by simp, rfl, compiles_singles.mp h⟩
    | fcmpd =>
      iterate 10 right
      exact .inl ⟨(_, 'D', _), by simp, rfl, compiles_doubles.mp h⟩
  | cmp =>
    iterate 11 right
    exact .inl ⟨rfl, compiles_twoRegs.mp h⟩
  | cmpi =>
    iterate 12 right
    exact .inl ⟨rfl, compiles_oneRegImm.mp h⟩
  | mov =>
    iterate 13 right
    exact ⟨rfl, compiles_twoRegs.mp h⟩

theorem threeRegs_rows : ∀ q ∈ [("ADD", Instr.add), ("ADDS", .adds), ("SUB", .sub), ("SUBS", .subs), ("AND", .and),
    ("ANDS", .ands), ("ORR", .orr), ("EOR", .eor)],
    ∃ m : Mnemonic, q.1 = m.spelling ∧ formOf m = .threeRegs q.2 := by
  simp only [List.forall_mem_cons]
  exact ⟨⟨.add, rfl, rfl⟩, ⟨.adds, rfl, rfl⟩, ⟨.sub, rfl, rfl⟩, ⟨.subs, rfl, rfl⟩, ⟨.and, rfl, rfl⟩, ⟨.ands, rfl, rfl⟩,
    ⟨.orr, rfl, rfl⟩, ⟨.eor, rfl, rfl⟩, nofun⟩

theorem imm12_rows : ∀ q ∈ [("ADDI", Instr.addi), ("ADDIS", .addis), ("SUBI", .subi), ("SUBIS", .subis), ("ANDI", .andi),
    ("ANDIS", .andis), ("ORRI", .orri), ("EORI", .eori)],
    ∃ m : Mnemonic, q.1 = m.spelling ∧ formOf m = .twoRegsImm permittedImm12 q.2 := by
  simp only [List.forall_mem_cons]
  exact ⟨⟨.addi, rfl, rfl⟩, ⟨.addis, rfl, rfl⟩, ⟨.subi, rfl, rfl⟩, ⟨.subis, rfl, rfl⟩, ⟨.andi, rfl, rfl⟩,
    ⟨.andis, rfl, rfl⟩, ⟨.orri, rfl, rfl⟩, ⟨.eori, rfl, rfl⟩, nofun⟩

theorem shift_rows : ∀ q ∈ [("LSL", Instr.lsl), ("LSR", .lsr)],
    ∃ m : Mnemonic, q.1 = m.spelling ∧ formOf m = .twoRegsImm permittedShift q.2 := by
  simp only [List.forall_mem_cons]
  exact ⟨⟨.lsl, rfl, rfl⟩, ⟨.lsr, rfl, rfl⟩, nofun⟩

theorem wide_rows : ∀ q ∈ [("MOVZ", Instr.movz), ("MOVK", .movk)],
    ∃ m : Mnemonic, q.1 = m.spelling ∧ formOf m = .wide q.2 := by
  simp only [List.forall_mem_cons]
  exact ⟨⟨.movz, rfl, rfl⟩, ⟨.movk, rfl, rfl⟩, nofun⟩

theorem memory_rows : ∀ q ∈ [("LDUR", Instr.ldur), ("LDURSW", .ldursw), ("LDURH", .ldurh), ("LDURB", .ldurb),
    ("STUR", .stur), ("STURW", .sturw), ("STURH", .sturh), ("STURB", .sturb)],
    ∃ m : Mnemonic, q.1 = m.spelling ∧ formOf m = .memory q.2 := by
  simp only [List.forall_mem_cons]
  exact ⟨⟨.ldur, rfl, rfl⟩, ⟨.ldursw, rfl, rfl⟩, ⟨.ldurh, rfl, rfl⟩, ⟨.ldurb, rfl, rfl⟩, ⟨.stur, rfl, rfl⟩,
    ⟨.sturw, rfl, rfl⟩, ⟨.sturh, rfl, rfl⟩, ⟨.sturb, rfl, rfl⟩, nofun⟩

theorem toLabel_rows : ∀ q ∈ [("B", Instr.b), ("BL", .bl), ("B.EQ", .bEq), ("B.NE", .bNe), ("B.HS", .bHs), ("B.LO", .bLo),
    ("B.HI", .bHi), ("B.LS", .bLs), ("B.GE", .bGe), ("B.LT", .bLt), ("B.GT", .bGt), ("B.LE", .bLe), ("B.MI", .bMi),
    ("B.PL", .bPl), ("B.VS", .bVs), ("B.VC", .bVc)],
    ∃ m : Mnemonic, q.1 = m.spelling ∧ formOf m = .toLabel q.2 := by
  simp only [List.forall_mem_cons]
  exact ⟨⟨.b, rfl, rfl⟩, ⟨.bl, rfl, rfl⟩, ⟨.bEq, rfl, rfl⟩, ⟨.bNe, rfl, rfl⟩, ⟨.bHs, rfl, rfl⟩, ⟨.bLo, rfl, rfl⟩,
    ⟨.bHi, rfl, rfl⟩, ⟨.bLs, rfl, rfl⟩, ⟨.bGe, rfl, rfl⟩, ⟨.bLt, rfl, rfl⟩, ⟨.bGt, rfl, rfl⟩, ⟨.bLe, rfl, rfl⟩,
    ⟨.bMi, rfl, rfl⟩, ⟨.bPl, rfl, rfl⟩, ⟨.bVs, rfl, rfl⟩, ⟨.bVc, rfl, rfl⟩, nofun⟩

theorem regToLabel_rows : ∀ q ∈ [("CBZ", Instr.cbz), ("CBNZ", .cbnz)],
    ∃ m : Mnemonic, q.1 = m.spelling ∧ formOf m = .regToLabel q.2 := by
  simp only [List.forall_mem_cons]
  exact ⟨⟨.cbz, rfl, rfl⟩, ⟨.cbnz, rfl, rfl⟩, nofun⟩

/-- What a row spells is what the operands of its mnemonic compile to, when the text's labels are the table's. -/
theorem compiles_of_spells
    (hlabels : ∀ l target, LabelAt lines l target → isLabelName l = true ∧ table.lookup l = some target) {name : Text}
    (h : Spells lines k name ts i) :
    ∃ m : SourceMnemonic, name = m.spelling ∧ Compiles table k (sourceFormOf m) ts i := by
  have row {q : String} {form : OperandForm} {name : Text} (hrow : ∃ m : Mnemonic, q = m.spelling ∧ formOf m = form)
      (hname : name = q.toList) (hc : Compiles table k form ts i) :
      ∃ m : SourceMnemonic, name = m.spelling ∧ Compiles table k (sourceFormOf m) ts i := by
    obtain ⟨m, rfl, rfl⟩ := hrow
    exact ⟨.real m, hname, hc⟩
  rcases h with ⟨q, hq, hn, h⟩ | ⟨q, hq, hn, h⟩ | ⟨q, hq, hn, h⟩ | ⟨q, hq, hn, h⟩ | ⟨q, hq, hn, h⟩ | ⟨hn, h⟩ | ⟨hn, h⟩
    | ⟨q, hq, hn, l, target, hts, hl, hi⟩ | ⟨hn, h⟩ | ⟨q, hq, hn, a, l, t, target, hts, ha, hl, hi⟩ | ⟨q, hq, hn, h⟩
    | ⟨hn, h⟩ | ⟨hn, h⟩ | ⟨hn, h⟩
  · exact row (threeRegs_rows q hq) hn (compiles_threeRegs.mpr h)
  · exact row (imm12_rows q hq) hn (compiles_twoRegsImm.mpr h)
  · exact row (shift_rows q hq) hn (compiles_twoRegsImm.mpr h)
  · exact row (wide_rows q hq) hn (compiles_wide.mpr h)
  · exact row (memory_rows q hq) hn (compiles_memory.mpr h)
  · exact ⟨.real .ldxr, hn, compiles_loadExclusive.mpr h⟩
  · exact ⟨.real .stxr, hn, compiles_storeExclusive.mpr h⟩
  · exact row (toLabel_rows q hq) hn (compiles_toLabel.mpr ⟨l, target, hts, hlabels l target hl, hi⟩)
  · exact ⟨.real .br, hn, compiles_oneReg.mpr h⟩
  · exact row (regToLabel_rows q hq) hn (compiles_regToLabel.mpr ⟨a, l, t, target, hts, ha, hlabels l target hl, hi⟩)
  · rcases List.mem_pair.mp hq with rfl | rfl
    · exact ⟨.real .fcmps, hn, compiles_singles.mpr h⟩
    · exact ⟨.real .fcmpd, hn, compiles_doubles.mpr h⟩
  · exact ⟨.cmp, hn, compiles_twoRegs.mpr h⟩
  · exact ⟨.cmpi, hn, compiles_oneRegImm.mpr h⟩
  · exact ⟨.mov, hn, compiles_twoRegs.mpr h⟩

/-- What compiles has its immediates in order, and for target an entry of the table. -/
theorem wf_of_compiles (m : SourceMnemonic) (h : Compiles table k (sourceFormOf m) ts i) :
    i.immediatesOk = true ∧ ∀ target, i.target? = some target → ∃ l, table.lookup l = some target := by
  cases m with
  | real m =>
    cases m with
    | add | adds | sub | subs | and | ands | orr | eor =>
      obtain ⟨_, _, _, _, _, _, -, -, -, -, rfl⟩ := compiles_threeRegs.mp h
      exact ⟨rfl, nofun⟩
    | addi | addis | subi | subis | andi | andis | orri | eori =>
      obtain ⟨_, _, _, _, _, imm, -, -, -, -, hle, rfl⟩ := compiles_twoRegsImm.mp h
      exact ⟨(permittedImm12_allows imm).mpr hle, nofun⟩
    | lsl | lsr =>
      obtain ⟨_, _, _, _, _, imm, -, -, -, -, hle, rfl⟩ := compiles_twoRegsImm.mp h
      exact ⟨(permittedShift_allows imm).mpr hle, nofun⟩
    | movz | movk =>
      obtain ⟨_, _, _, imm, -, -, hle, ⟨-, rfl⟩ | ⟨_, q, -, -, hq, rfl⟩⟩ := compiles_wide.mp h
      · exact ⟨Bool.and_eq_true_iff.mpr ⟨(permittedWide_allows imm).mpr hle, rfl⟩, nofun⟩
      · exact ⟨Bool.and_eq_true_iff.mpr ⟨(permittedWide_allows imm).mpr hle, (permittedQuadrant_allows q).mpr hq⟩, nofun⟩
    | ldur | ldursw | ldurh | ldurb | stur | sturw | sturh | sturb =>
      obtain ⟨_, _, _, _, _, off, -, -, -, -, hlo, hhi, rfl⟩ := compiles_memory.mp h
      exact ⟨(permittedOffset_allows off).mpr ⟨hlo, hhi⟩, nofun⟩
    | ldxr =>
      obtain ⟨_, _, _, _, _, _, -, -, -, -, -, -, rfl⟩ := compiles_loadExclusive.mp h
      exact ⟨rfl, nofun⟩
    | stxr =>
      obtain ⟨_, _, _, _, _, _, _, -, -, -, -, -, rfl⟩ := compiles_storeExclusive.mp h
      exact ⟨rfl, nofun⟩
    | b | bl | bEq | bNe | bHs | bLo | bHi | bLs | bGe | bLt | bGt | bLe | bMi | bPl | bVs | bVc =>
      obtain ⟨l, target, -, ⟨-, hl⟩, rfl⟩ := compiles_toLabel.mp h
      exact ⟨rfl, fun _ ht => ⟨l, hl.trans ht⟩⟩
    | br =>
      obtain ⟨_, _, -, -, rfl⟩ := compiles_oneReg.mp h
      exact ⟨rfl, nofun⟩
    | cbz | cbnz =>
      obtain ⟨_, l, _, target, -, -, ⟨-, hl⟩, rfl⟩ := compiles_regToLabel.mp h
      exact ⟨rfl, fun _ ht => ⟨l, hl.trans ht⟩⟩
    | fcmps =>
      obtain ⟨_, _, _, _, -, -, -, rfl⟩ := compiles_singles.mp h
      exact ⟨rfl, nofun⟩
    | fcmpd =>
      obtain ⟨_, _, _, _, -, -, -, rfl⟩ := compiles_doubles.mp h
      exact ⟨rfl, nofun⟩
  | cmp | mov =>
    obtain ⟨_, _, _, _, -, -, -, rfl⟩ := compiles_twoRegs.mp h
    exact ⟨rfl, nofun⟩
  | cmpi =>
    obtain ⟨_, _, _, imm, -, -, -, hle, rfl⟩ := compiles_oneRegImm.mp h
    exact ⟨(permittedImm12_allows imm).mpr hle, nofun⟩

end

/-! ## Mnemonics -/

theorem mem_sourceMnemonics (m : SourceMnemonic) : m ∈ sourceMnemonics := by
  cases m with
  | real m => cases m <;> decide
  | cmp | cmpi | mov => decide

/-- Each spelling in either case is read as its mnemonic in that case: no two are alike (R72 R74). -/
theorem readMnemonic_inCase (k : LetterCase) (m : SourceMnemonic) : readMnemonic (inCase k m.spelling) = some (m, k) := by
  have upper : ∀ m ∈ sourceMnemonics, readMnemonic (inCase .upper m.spelling) = some (m, .upper) := by decide +kernel
  have lower : ∀ m ∈ sourceMnemonics, readMnemonic (inCase .lower m.spelling) = some (m, .lower) := by decide +kernel
  cases k with
  | upper => exact upper m (mem_sourceMnemonics m)
  | lower => exact lower m (mem_sourceMnemonics m)

/-- A token that spells no mnemonic in either case is read as none (R75). -/
theorem readMnemonic_eq_none {t : Text} (h : ∀ m ∈ sourceMnemonics, ∀ k, t ≠ inCase k m.spelling) :
    readMnemonic t = none := by
  refine Option.eq_none_iff_forall_ne_some.mpr fun ⟨m, k⟩ hm => ?_
  obtain ⟨hmem, ht⟩ := readMnemonic_eq_some hm
  exact h m hmem k ht

/-! ## Lines -/

section
variable {line : Text} {label : Option Text} {ts : List Text}

theorem splitLabel_eq_some {tokens rest : List Text} {name : Text} :
    splitLabel tokens = (some name, rest) ↔ tokens = name :: [':'] :: rest := by
  constructor
  · intro h
    unfold splitLabel at h
    split at h <;> cases h
    rfl
  · rintro rfl
    rfl

theorem splitLabel_eq_none {tokens rest : List Text} (h : splitLabel tokens = (none, rest)) : tokens = rest := by
  unfold splitLabel at h
  split at h <;> cases h
  rfl

/-- A line whose second token is no colon defines no label. -/
theorem splitLabel_of_no_colon {t : Text} (h : ts.head? ≠ some [':']) : splitLabel (t :: ts) = (none, t :: ts) := by
  unfold splitLabel
  split
  · rename_i heq
    cases heq
    exact absurd rfl h
  · rfl

/-- The label before a line's instruction, if any, is well spelled. -/
def LabelWellSpelled (label : Option Text) : Prop := ∀ name, label = some name → isLabelName name = true

theorem parseLine_badLabel {name : Text} (hs : splitLabel (tokensOf line) = (some name, ts))
    (hn : isLabelName name = false) : parseLine line = .error (wrongToken [.labelName] name) := by
  rw [parseLine, hs]
  simp [hn]

theorem LabelWellSpelled.map_ne (h : LabelWellSpelled label) : label.map isLabelName ≠ some false := by
  cases label with
  | none => simp
  | some name => simp [h name rfl]

theorem parseLine_noInstruction (hs : splitLabel (tokensOf line) = (label, [])) (hl : LabelWellSpelled label) :
    parseLine line = .error (tokensMissing (lineStart label)) := by
  rw [parseLine, hs]
  simp only [if_neg hl.map_ne]

theorem parseLine_noMnemonic {t : Text} (hs : splitLabel (tokensOf line) = (label, t :: ts)) (hl : LabelWellSpelled label)
    (hm : ∀ m ∈ sourceMnemonics, ∀ k, t ≠ inCase k m.spelling) :
    parseLine line = .error { kind := .unsupportedInstruction, token := t, permitted := lineStart label } := by
  rw [parseLine, hs]
  simp only [if_neg hl.map_ne, readMnemonic_eq_none hm]

/-- A line with a mnemonic is parsed as its operands are. -/
theorem parseLine_mnemonic {m : SourceMnemonic} {k : LetterCase}
    (hs : splitLabel (tokensOf line) = (label, inCase k m.spelling :: ts)) (hl : LabelWellSpelled label) :
    parseLine line = (parseOperands k (sourceFormOf m) ts).map (ParsedLine.mk (sourceFormOf m)) := by
  rw [parseLine, hs]
  simp only [if_neg hl.map_ne, readMnemonic_inCase]
  cases parseOperands k (sourceFormOf m) ts <;> rfl

/-- A parsed line is an optional well-spelled label, a mnemonic in one case, and its operands. -/
theorem parseLine_eq_ok {p : ParsedLine} (h : parseLine line = .ok p) : ∃ label m k ts os,
    splitLabel (tokensOf line) = (label, inCase k (SourceMnemonic.spelling m) :: ts) ∧ LabelWellSpelled label
      ∧ parseOperands k (sourceFormOf m) ts = .ok os ∧ p = { form := sourceFormOf m, operands := os } := by
  obtain ⟨label, tokens, hs⟩ : ∃ label tokens, splitLabel (tokensOf line) = (label, tokens) := ⟨_, _, rfl⟩
  have hl : LabelWellSpelled label := by
    rintro name rfl
    by_contra hn
    cases (parseLine_badLabel hs (Bool.eq_false_iff.mpr hn)).symm.trans h
  cases tokens with
  | nil => cases (parseLine_noInstruction hs hl).symm.trans h
  | cons t ts =>
    by_cases hm : ∀ m ∈ sourceMnemonics, ∀ k, t ≠ inCase k m.spelling
    · cases (parseLine_noMnemonic hs hl hm).symm.trans h
    · push Not at hm
      obtain ⟨m, -, k, rfl⟩ := hm
      rw [parseLine_mnemonic hs hl] at h
      cases hp : parseOperands k (sourceFormOf m) ts with
      | error x => rw [hp] at h; cases h
      | ok os => rw [hp] at h; cases h; exact ⟨label, m, k, ts, os, hs, hl, hp, rfl⟩

end

end Sys2Proof.Machine
end

section
/-!
PROOFS. The compiler: the labels of its branch table, the lines that compile, and the errors of those that do not
(30_encoding R79 R80 R101 R102).
-/

namespace Sys2Proof.Machine

/-! ## The branch table -/

section
variable {lines : List Text} {name : Text} {k : Nat}

theorem labelAt_iff : LabelAt lines name k ↔ ∃ line, lines[k]? = some line ∧ definedLabel line = some name := by
  simp only [LabelAt, definedLabel_eq_some, exists_and_left]

theorem mem_branchTable_iff : (name, k) ∈ branchTableFrom 0 lines ↔ LabelAt lines name k := by
  simp [mem_branchTableFrom, labelAt_iff]

/-- A defined label is found, at the first line that defines it. -/
theorem lookup_branchTableFrom {b : Nat} (h : (name, k) ∈ branchTableFrom b lines) :
    ∃ j ≤ k, (branchTableFrom b lines).lookup name = some j := by
  induction lines generalizing b with
  | nil => cases h
  | cons line lines ih =>
    have hb : b ≤ k := by
      obtain ⟨j, _, _, rfl, _⟩ := (mem_branchTableFrom ..).mp h
      exact Nat.le_add_right b j
    rw [branchTableFrom] at h ⊢
    cases hd : definedLabel line with
    | none =>
      rw [hd] at h
      exact ih h
    | some first =>
      rw [hd] at h
      by_cases hn : name = first
      · exact ⟨b, hb, by simp [hn]⟩
      · obtain ⟨j, hj, hl⟩ := ih (List.mem_of_ne_of_mem (fun he => hn (congrArg Prod.fst he)) h)
        exact ⟨j, hj, by simpa [List.lookup_cons, beq_eq_false_iff_ne.mpr hn] using hl⟩

theorem labelAt_of_lookup (h : (branchTableFrom 0 lines).lookup name = some k) : LabelAt lines name k := by
  obtain ⟨l₁, l₂, hl, -⟩ := List.lookup_eq_some_iff.mp h
  exact mem_branchTable_iff.mp (hl ▸ by simp)

/-- When no label is defined twice, each is found at its line. -/
theorem lookup_of_labelAt (hunique : ∀ name j k, LabelAt lines name j → LabelAt lines name k → j = k)
    (h : LabelAt lines name k) : (branchTableFrom 0 lines).lookup name = some k := by
  obtain ⟨j, -, hj⟩ := lookup_branchTableFrom (mem_branchTable_iff.mpr h)
  rw [hj, hunique name j k (labelAt_of_lookup hj) h]

theorem LabelAt.lt_length (h : LabelAt lines name k) : k < lines.length := by
  obtain ⟨line, -, hk, -⟩ := h
  exact (List.getElem?_eq_some_iff.mp hk).1

end

/-! ## One line -/

section
variable {table : List (Text × Nat)} {i : Nat} {line : Text}

theorem redefines_eq_some {name : Text} :
    redefines table i line = some name ↔ definedLabel line = some name ∧ table.lookup name ≠ some i := by
  unfold redefines
  cases definedLabel line with
  | none => simp
  | some n =>
    simp only [Option.ite_none_left_eq_some, Option.some_inj]
    constructor
    · rintro ⟨h, rfl⟩
      exact ⟨rfl, h⟩
    · rintro ⟨rfl, h⟩
      exact ⟨h, rfl⟩

theorem compileLine_eq_ok {r : Record} : compileLine table i line = .ok r ↔ ∃ p instr, parseLine line = .ok p
    ∧ redefines table i line = none ∧ instructionOf table p = .ok instr ∧ r = Record.bind instr (i + 1) := by
  unfold compileLine
  cases parseLine line with
  | error x => simp
  | ok p =>
    cases redefines table i line with
    | some name => simp
    | none => cases hi : instructionOf table p <;> simp [hi, eq_comm]

/-- The error of a line is that of its parse, or, of a line that parses, a label defined before or what its instruction
lacks. -/
theorem compileLine_error_cases {e : CompileError} (h : compileLine table i line = .error e) :
    (∃ x, parseLine line = .error x ∧ e = x.atIndex i)
    ∨ ∃ p, parseLine line = .ok p ∧ ((∃ name, redefines table i line = some name
        ∧ e = { kind := .duplicateLabel, line := i + 1, token := name, permitted := [.newLabel] })
      ∨ ∃ x, instructionOf table p = .error x ∧ e = x.atIndex i) := by
  unfold compileLine at h
  cases hp : parseLine line with
  | error x =>
    rw [hp] at h
    cases h
    exact .inl ⟨x, rfl, rfl⟩
  | ok p =>
    rw [hp] at h
    refine .inr ⟨p, rfl, ?_⟩
    cases hr : redefines table i line with
    | some name =>
      rw [hr] at h
      cases h
      exact .inl ⟨name, rfl, rfl⟩
    | none =>
      simp only [hr] at h
      cases hi : instructionOf table p with
      | ok instr => rw [hi] at h; cases h
      | error x =>
        rw [hi] at h
        cases h
        exact .inr ⟨x, rfl, rfl⟩

theorem compileLine_error_line {e : CompileError} (h : compileLine table i line = .error e) : e.line = i + 1 := by
  rcases compileLine_error_cases h with ⟨x, -, rfl⟩ | ⟨p, -, ⟨name, -, rfl⟩ | ⟨x, -, rfl⟩⟩ <;> rfl

theorem compileLine_of_parse_error {x : LineError} (h : parseLine line = .error x) :
    compileLine table i line = .error (x.atIndex i) := by
  rw [compileLine, h]

end

/-! ## A parsed line and the instruction it spells -/

/-- The operands of a form do not begin with a colon, so the mnemonic before them is taken for no label. -/
theorem head_ne_colon_of_parseOperands {k : LetterCase} {form : OperandForm} {ts : List Text} {os : List Operand}
    (h : parseOperands k form ts = .ok os) : ts.head? ≠ some [':'] := by
  obtain ⟨e, es, hform, hcolon⟩ : ∃ e es, form.expected = e :: es ∧ ∀ o, readToken e [':'] ≠ .ok o := by
    cases form <;> exact ⟨_, _, rfl, nofun⟩
  cases hm : matchTokens form.expected ts with
  | error x =>
    rw [parseOperands, hm] at h
    cases h
  | ok q =>
    rw [hform] at hm
    obtain ⟨t, o, ts', os', ho, -, rfl, -⟩ := matchTokens_cons_eq_ok.mp hm
    intro ht
    cases ht
    exact hcolon o ho

section
variable {lines : List Text} {line : Text} {i : Instr}

theorem lineSpells_of_parse {p : ParsedLine} (hp : parseLine line = .ok p)
    (hi : instructionOf (branchTableFrom 0 lines) p = .ok i) : LineSpells lines line i := by
  obtain ⟨label, m, k, ts, os, hs, hl, ho, rfl⟩ := parseLine_eq_ok hp
  refine ⟨k, m.spelling, ts, spells_of_compiles (fun _ _ => labelAt_of_lookup) m ⟨os, ho, hi⟩, ?_⟩
  cases label with
  | none => exact .inl (splitLabel_eq_none hs)
  | some l => exact .inr ⟨l, hl l rfl, splitLabel_eq_some.mp hs⟩

/-- What a parsed line gives is in order: its immediates, and its target as an index of the program (R79 R80). -/
theorem wf_of_parse {p : ParsedLine} (hp : parseLine line = .ok p)
    (hi : instructionOf (branchTableFrom 0 lines) p = .ok i) :
    i.immediatesOk = true ∧ ∀ target, i.target? = some target → target < lines.length := by
  obtain ⟨_, m, k, ts, os, -, -, ho, rfl⟩ := parseLine_eq_ok hp
  obtain ⟨himm, htarget⟩ := wf_of_compiles m ⟨os, ho, hi⟩
  refine ⟨himm, fun target ht => ?_⟩
  obtain ⟨l, hl⟩ := htarget target ht
  exact (labelAt_of_lookup hl).lt_length

theorem parse_of_lineSpells (hunique : ∀ name j k, LabelAt lines name j → LabelAt lines name k → j = k)
    (h : LineSpells lines line i) :
    ∃ p, parseLine line = .ok p ∧ instructionOf (branchTableFrom 0 lines) p = .ok i := by
  obtain ⟨k, name, ts, hspells, htokens⟩ := h
  obtain ⟨m, rfl, os, ho, hi⟩ := compiles_of_spells (table := branchTableFrom 0 lines)
    (fun l target hl => ⟨hl.choose_spec.choose_spec.2.2, lookup_of_labelAt hunique hl⟩) hspells
  obtain ⟨label, hs, hl⟩ : ∃ label, splitLabel (tokensOf line) = (label, inCase k m.spelling :: ts)
      ∧ LabelWellSpelled label := by
    rcases htokens with ht | ⟨l, hl, ht⟩
    · exact ⟨none, ht ▸ splitLabel_of_no_colon (head_ne_colon_of_parseOperands ho), nofun⟩
    · exact ⟨some l, splitLabel_eq_some.mpr ht, fun _ he => Option.some_inj.mp he ▸ hl⟩
  exact ⟨_, by rw [parseLine_mnemonic hs hl, ho]; rfl, hi⟩

end

/-! ## All lines -/

section
variable {table : List (Text × Nat)} {lines : List Text}

/-- Lines without an error give one record each. -/
theorem compileFrom_records {b : Nat} (h : (compileFrom table b lines).1 = []) :
    (compileFrom table b lines).2.length = lines.length ∧ ∀ (k : Nat) (r : Record),
      (compileFrom table b lines).2[k]? = some r →
        ∃ line, lines[k]? = some line ∧ compileLine table (b + k) line = .ok r := by
  induction lines generalizing b with
  | nil => exact ⟨rfl, fun k r hr => by simp [compileFrom] at hr⟩
  | cons line lines ih =>
    simp only [compileFrom] at h ⊢
    cases hc : compileLine table b line with
    | error e => rw [hc] at h; cases h
    | ok r =>
      rw [hc] at h
      obtain ⟨hlen, hrec⟩ := ih h
      refine ⟨congrArg (· + 1) hlen, fun k r' hk => ?_⟩
      cases k with
      | zero => cases hk; exact ⟨line, rfl, hc⟩
      | succ k =>
        obtain ⟨line', hl, hr⟩ := hrec k r' hk
        exact ⟨line', hl, by rwa [Nat.add_right_comm] at hr⟩

/-- There is at most one error per line (R101). -/
theorem compileFrom_errors_length (b : Nat) : (compileFrom table b lines).1.length ≤ lines.length := by
  induction lines generalizing b with
  | nil => exact Nat.le_refl 0
  | cons line lines ih =>
    simp only [compileFrom]
    cases compileLine table b line with
    | error e => exact Nat.succ_le_succ (ih (b + 1))
    | ok r => exact Nat.le_succ_of_le (ih (b + 1))

theorem compile_eq_ok {p : Program} : compile lines = .ok p ↔ (compileFrom (branchTableFrom 0 lines) 0 lines).1 = []
    ∧ p = { records := (compileFrom (branchTableFrom 0 lines) 0 lines).2, branchTable := branchTableFrom 0 lines } := by
  rw [compile]
  rcases compileFrom (branchTableFrom 0 lines) 0 lines with ⟨_ | ⟨e, es⟩, records⟩ <;> simp [eq_comm]

/-- The errors of a compile are the errors of the lines, of which there is one. -/
theorem compile_eq_error {es : List CompileError} :
    compile lines = .error es ↔ es ≠ [] ∧ es = (compileFrom (branchTableFrom 0 lines) 0 lines).1 := by
  rw [compile]
  rcases compileFrom (branchTableFrom 0 lines) 0 lines with ⟨_ | ⟨e, es⟩, records⟩
  · simp
  · rw [Except.error.injEq]
    exact ⟨fun h => ⟨h ▸ List.cons_ne_nil e es, h.symm⟩, fun h => h.2.symm⟩

theorem mem_errors_of_compile {es : List CompileError} (h : compile lines = .error es) {e : CompileError} :
    e ∈ es ↔ ∃ i line, lines[i]? = some line ∧ compileLine (branchTableFrom 0 lines) i line = .error e := by
  rw [(compile_eq_error.mp h).2, mem_compileFrom_errors]
  simp only [Nat.zero_add]

/-- A text whose lines all compile does. -/
theorem compile_of_lines
    (h : ∀ i line, lines[i]? = some line → ∃ r, compileLine (branchTableFrom 0 lines) i line = .ok r) :
    ∃ p, compile lines = .ok p := by
  refine ⟨_, compile_eq_ok.mpr ⟨List.eq_nil_iff_forall_not_mem.mpr fun e he => ?_, rfl⟩⟩
  obtain ⟨i, line, hl, hc⟩ := (mem_compileFrom_errors ..).mp he
  obtain ⟨r, hr⟩ := h i line hl
  rw [Nat.zero_add, hr] at hc
  cases hc

/-- The records of a compiled text: one per line, each what its line compiles to. -/
theorem record_of_compile {p : Program} (h : compile lines = .ok p) {k : Nat} {r : Record} (hr : p.records[k]? = some r) :
    ∃ line, lines[k]? = some line ∧ compileLine (branchTableFrom 0 lines) k line = .ok r := by
  obtain ⟨hnil, rfl⟩ := compile_eq_ok.mp h
  obtain ⟨line, hl, hc⟩ := (compileFrom_records hnil).2 k r hr
  exact ⟨line, hl, by rwa [Nat.zero_add] at hc⟩

theorem records_length_of_compile {p : Program} (h : compile lines = .ok p) : p.records.length = lines.length := by
  obtain ⟨hnil, rfl⟩ := compile_eq_ok.mp h
  exact (compileFrom_records hnil).1

/-- A compiled program is well formed (R102). -/
theorem programWf_of_compile {p : Program} (h : compile lines = .ok p) : Program.wf p = true := by
  refine (programWf_iff p).mpr fun r hr => (recordWf_iff _ _).mpr ?_
  obtain ⟨k, hk⟩ := List.mem_iff_getElem?.mp hr
  obtain ⟨line, -, hc⟩ := record_of_compile h hk
  obtain ⟨parsed, i, hp, -, hi, rfl⟩ := compileLine_eq_ok.mp hc
  obtain ⟨himm, htarget⟩ := wf_of_parse hp hi
  exact ⟨himm, records_length_of_compile h ▸ htarget, rfl⟩

/-- A text whose lines all spell an instruction, with no label defined twice, compiles. -/
theorem compile_of_spells (hspells : ∀ line ∈ lines, ∃ i, LineSpells lines line i)
    (hunique : ∀ name j k, LabelAt lines name j → LabelAt lines name k → j = k) : ∃ p, compile lines = .ok p := by
  refine compile_of_lines fun i line hl => ?_
  obtain ⟨instr, hi⟩ := hspells line (List.mem_of_getElem? hl)
  obtain ⟨p, hp, hinstr⟩ := parse_of_lineSpells hunique hi
  refine ⟨_, compileLine_eq_ok.mpr ⟨p, instr, hp, Option.eq_none_iff_forall_ne_some.mpr fun name hn => ?_, hinstr, rfl⟩⟩
  obtain ⟨hd, hlookup⟩ := redefines_eq_some.mp hn
  exact hlookup (lookup_of_labelAt hunique (labelAt_iff.mpr ⟨line, hl, hd⟩))

end

end Sys2Proof.Machine
end

section
/-!
PROOFS. The errors of a line: which token an error echoes, and what it permits in its place (30_encoding R79 R80 R101).
-/

namespace Sys2Proof.Machine

/-- A sequence that does not match errs at one of its members: the token there is wrong, or there is none. -/
theorem matchTokens_error {es : List Alternative} {ts : List Text} {x : LineError} (h : matchTokens es ts = .error x) :
    ∃ k e, es[k]? = some e ∧ x.permitted = [e]
      ∧ ((x.kind = .invalidToken ∧ ts[k]? = some x.token)
        ∨ (x.kind = .missingTokens ∧ ts.length = k ∧ x.token = [])) := by
  induction es generalizing ts with
  | nil => cases h
  | cons e es ih =>
    cases ts with
    | nil =>
      cases h
      exact ⟨0, e, rfl, rfl, .inr ⟨rfl, rfl, rfl⟩⟩
    | cons t ts =>
      rw [matchTokens] at h
      cases ho : readToken e t with
      | error y =>
        rw [ho] at h
        cases h
        cases readToken_error ho
        exact ⟨0, e, rfl, rfl, .inl ⟨rfl, rfl⟩⟩
      | ok o =>
        simp only [ho] at h
        cases hm : matchTokens es ts with
        | ok q => rw [hm] at h; cases h
        | error y =>
          rw [hm] at h
          cases h
          obtain ⟨k, e', he, hp, hkind⟩ := ih hm
          exact ⟨k + 1, e', he, hp, hkind.imp_right fun ⟨hk, hl, ht⟩ => ⟨hk, congrArg (· + 1) hl, ht⟩⟩

section
variable {c : LetterCase} {form : OperandForm} {ts : List Text}

theorem parseOperands_of_error {x : LineError} (h : matchTokens form.expected ts = .error x) :
    parseOperands c form ts = .error x := by
  rw [parseOperands, h]

theorem parseOperands_of_extra {os : List Operand} {extra : Text} {rest : List Text} (hf : ∀ f, form ≠ .wide f)
    (h : matchTokens form.expected ts = .ok (os, extra :: rest)) :
    parseOperands c form ts = .error (extraToken [.endOfLine] extra) := by
  rw [parseOperands, h]
  cases form with
  | wide f => exact absurd rfl (hf f)
  | _ => rfl

theorem parseOperands_of_wide {f : Reg → Nat → Nat → Instr} {os : List Operand} {rest : List Text}
    (h : matchTokens (OperandForm.wide f).expected ts = .ok (os, rest)) :
    parseOperands c (.wide f) ts = parseWideTail c os rest := by
  rw [parseOperands, h]

end

/-- The ranges that the immediates of a form must be in (R79). -/
def OperandForm.ranges : OperandForm → List Permitted
  | .twoRegsImm p _ | .oneRegImm p _ => [p]
  | .wide _ => [permittedWide, permittedQuadrant]
  | .memory _ => [permittedOffset]
  | .loadExclusive _ | .storeExclusive _ => [permittedExclusive]
  | .threeRegs _ | .twoRegs _ | .oneReg _ | .toLabel _ | .regToLabel _ | .singles _ | .doubles _ => []

/-- Every range a form asks for is one of R79. -/
theorem ranges_of_sourceForm (m : SourceMnemonic) : ∀ p ∈ (sourceFormOf m).ranges, p ∈ [permittedImm12, permittedOffset,
    permittedShift, permittedWide, permittedQuadrant, permittedExclusive] :=
  (by decide : ∀ m ∈ sourceMnemonics, ∀ p ∈ (sourceFormOf m).ranges, p ∈ [permittedImm12, permittedOffset,
    permittedShift, permittedWide, permittedQuadrant, permittedExclusive]) m (mem_sourceMnemonics m)

/-- The error of an immediate among the tokens `ts`: its token is echoed, with the range that it is outside. -/
def OutsideItsRange (ranges : List Permitted) (ts : List Text) (x : LineError) : Prop :=
  x.kind = .immediateOutOfBounds ∧ x.token ∈ ts ∧ ∃ v, readImmediate x.token = some v
    ∧ ∃ p ∈ ranges, p.allows v = false ∧ x.permitted = [.valueIn p]

/-- The error of a label among the tokens `ts`: its name is echoed, with the labels the table defines. -/
def NamesNoLabel (table : List (Text × Nat)) (ts : List Text) (x : LineError) : Prop :=
  x.kind = .undefinedLabel ∧ x.token ∈ ts ∧ table.lookup x.token = none
    ∧ x.permitted = table.map (fun d => .definedLabel d.1)

section
variable {table : List (Text × Nat)} {ts : List Text} {x : LineError}

theorem outsideItsRange_of_checkImmediate {α : Type} {ranges : List Permitted} {p : Permitted} {v : Int}
    {t : Text} {g : Int → α} (hp : p ∈ ranges) (hv : readImmediate t = some v) (ht : t ∈ ts)
    (h : (checkImmediate p v t).map g = .error x) : OutsideItsRange ranges ts x := by
  cases hc : checkImmediate p v t with
  | ok v => rw [hc] at h; cases h
  | error y =>
    rw [hc] at h
    cases h
    obtain ⟨hout, rfl⟩ := checkImmediate_error hc
    exact ⟨rfl, ht, v, hv, p, hp, hout, rfl⟩

theorem namesNoLabel_of_resolveLabel {α : Type} {name : Text} {g : Nat → α} (ht : name ∈ ts)
    (h : (resolveLabel table name).map g = .error x) : NamesNoLabel table ts x := by
  cases hc : resolveLabel table name with
  | ok v => rw [hc] at h; cases h
  | error y =>
    rw [hc] at h
    cases h
    obtain ⟨hl, rfl⟩ := resolveLabel_error hc
    exact ⟨rfl, ht, hl, rfl⟩

/-- The error of a wide move's value, or else of its shift. -/
theorem instructionOf_wide_error {f : Reg → Nat → Nat → Instr} {d : Reg} {v w : Int} {t u : Text}
    (h : instructionOf table { form := .wide f, operands := [.reg d, .imm v t, .imm w u] } = .error x) :
    (checkImmediate permittedWide v t).map id = .error x ∨ (checkImmediate permittedQuadrant w u).map id = .error x := by
  rw [instructionOf] at h
  simp only at h
  cases hv : checkImmediate permittedWide v t with
  | error y => rw [hv] at h; cases h; exact .inl rfl
  | ok i =>
    simp only [hv] at h
    cases hw : checkImmediate permittedQuadrant w u with
    | error y => rw [hw] at h; cases h; exact .inr rfl
    | ok j => rw [hw] at h; cases h

/-- What the instruction of parsed operands can lack: an immediate in its range, or the label. -/
theorem instructionOf_error {c : LetterCase} {form : OperandForm} {os : List Operand}
    (hp : parseOperands c form ts = .ok os) (hx : instructionOf table { form := form, operands := os } = .error x) :
    OutsideItsRange form.ranges ts x ∨ NamesNoLabel table ts x := by
  cases form with
  | threeRegs f =>
    obtain ⟨_, _, _, _, _, _, -, -, -, -, rfl⟩ := parseOperands_threeRegs.mp hp
    cases hx
  | twoRegs f =>
    obtain ⟨_, _, _, _, -, -, -, rfl⟩ := parseOperands_twoRegs.mp hp
    cases hx
  | oneReg f =>
    obtain ⟨_, _, -, -, rfl⟩ := parseOperands_oneReg.mp hp
    cases hx
  | singles f =>
    obtain ⟨_, _, _, _, -, -, -, rfl⟩ := parseOperands_singles.mp hp
    cases hx
  | doubles f =>
    obtain ⟨_, _, _, _, -, -, -, rfl⟩ := parseOperands_doubles.mp hp
    cases hx
  | twoRegsImm p f =>
    obtain ⟨_, _, _, _, t, v, -, -, hv, rfl, rfl⟩ := parseOperands_twoRegsImm.mp hp
    exact .inl (outsideItsRange_of_checkImmediate (by simp [OperandForm.ranges]) hv (by simp) hx)
  | oneRegImm p f =>
    obtain ⟨_, _, t, v, -, hv, rfl, rfl⟩ := parseOperands_oneRegImm.mp hp
    exact .inl (outsideItsRange_of_checkImmediate (by simp [OperandForm.ranges]) hv (by simp) hx)
  | wide f =>
    obtain ⟨_, _, b, v, -, hv, ⟨rfl, rfl⟩ | ⟨t, q, hq, rfl, rfl⟩⟩ := parseOperands_wide.mp hp
    · rcases instructionOf_wide_error hx with h | h
      · exact .inl (outsideItsRange_of_checkImmediate (by simp [OperandForm.ranges]) hv (by simp) h)
      · cases h
    · rcases instructionOf_wide_error hx with h | h
      · exact .inl (outsideItsRange_of_checkImmediate (by simp [OperandForm.ranges]) hv (by simp) h)
      · exact .inl (outsideItsRange_of_checkImmediate (by simp [OperandForm.ranges]) hq (by simp) h)
  | memory f =>
    obtain ⟨_, _, _, _, t, v, -, -, hv, rfl, rfl⟩ := parseOperands_memory.mp hp
    exact .inl (outsideItsRange_of_checkImmediate (by simp [OperandForm.ranges]) hv (by simp) hx)
  | loadExclusive f =>
    obtain ⟨_, _, _, _, t, v, -, -, hv, rfl, rfl⟩ := parseOperands_loadExclusive.mp hp
    exact .inl (outsideItsRange_of_checkImmediate (by simp [OperandForm.ranges]) hv (by simp) hx)
  | storeExclusive f =>
    obtain ⟨_, _, _, _, _, _, t, v, -, -, -, hv, rfl, rfl⟩ := parseOperands_storeExclusive.mp hp
    exact .inl (outsideItsRange_of_checkImmediate (by simp [OperandForm.ranges]) hv (by simp) hx)
  | toLabel f =>
    obtain ⟨l, -, rfl, rfl⟩ := parseOperands_toLabel.mp hp
    exact .inr (namesNoLabel_of_resolveLabel (by simp) hx)
  | regToLabel f =>
    obtain ⟨_, _, l, -, -, rfl, rfl⟩ := parseOperands_regToLabel.mp hp
    exact .inr (namesNoLabel_of_resolveLabel (by simp) hx)

end

/-! ## The errors of a compile -/

section
variable {lines : List Text} {line : Text} {i : Nat}

/-- A label defined again is one that an earlier line defines. -/
theorem earlier_of_redefines {name : Text} (hl : lines[i]? = some line)
    (h : redefines (branchTableFrom 0 lines) i line = some name) : definedLabel line = some name
      ∧ ∃ j earlier, j < i ∧ lines[j]? = some earlier ∧ definedLabel earlier = some name := by
  obtain ⟨hd, hlookup⟩ := redefines_eq_some.mp h
  obtain ⟨j, hj, hfound⟩ := lookup_branchTableFrom (mem_branchTable_iff.mpr (labelAt_iff.mpr ⟨line, hl, hd⟩))
  obtain ⟨earlier, he, hde⟩ := labelAt_iff.mp (labelAt_of_lookup hfound)
  exact ⟨hd, j, earlier, lt_of_le_of_ne hj fun hji => hlookup (hji ▸ hfound), he, hde⟩

/-- A label that no line defines is permitted every one that some line does. -/
theorem NamesNoLabel.undefined {ts : List Text} {x : LineError} (h : NamesNoLabel (branchTableFrom 0 lines) ts x) :
    (∀ l ∈ lines, definedLabel l ≠ some x.token)
      ∧ ∀ a, a ∈ x.permitted ↔ ∃ l ∈ lines, ∃ name, definedLabel l = some name ∧ a = .definedLabel name := by
  obtain ⟨-, -, hnone, hpermitted⟩ := h
  refine ⟨fun l hl hd => ?_, fun a => ?_⟩
  · obtain ⟨k, hk⟩ := List.mem_iff_getElem?.mp hl
    obtain ⟨j, -, hj⟩ := lookup_branchTableFrom (mem_branchTable_iff.mpr (labelAt_iff.mpr ⟨l, hk, hd⟩))
    cases hnone.symm.trans hj
  · rw [hpermitted, List.mem_map]
    constructor
    · rintro ⟨⟨name, k⟩, hmem, rfl⟩
      obtain ⟨l, hl, hd⟩ := labelAt_iff.mp (mem_branchTable_iff.mp hmem)
      exact ⟨l, List.mem_of_getElem? hl, name, hd, rfl⟩
    · rintro ⟨l, hl, name, hd, rfl⟩
      obtain ⟨k, hk⟩ := List.mem_iff_getElem?.mp hl
      exact ⟨(name, k), mem_branchTable_iff.mpr (labelAt_iff.mpr ⟨l, hk, hd⟩), rfl⟩

/-- The tokens behind a line's label and mnemonic are tokens of the line. -/
theorem mem_tokensOf_of_splitLabel {label : Option Text} {t u : Text} {ts : List Text}
    (h : splitLabel (tokensOf line) = (label, t :: ts)) (hu : u ∈ ts) : u ∈ tokensOf line := by
  cases label with
  | none => exact splitLabel_eq_none h ▸ List.mem_cons_of_mem t hu
  | some name => exact splitLabel_eq_some.mp h ▸ by simp [hu]

/-- What a parsed line's instruction can lack: an immediate of the line in its range of R79, or a label that
is defined. -/
theorem instruction_error_of_parse {table : List (Text × Nat)} {p : ParsedLine} {x : LineError}
    (hp : parseLine line = .ok p) (hx : instructionOf table p = .error x) :
    OutsideItsRange [permittedImm12, permittedOffset, permittedShift, permittedWide, permittedQuadrant,
        permittedExclusive] (tokensOf line) x
      ∨ NamesNoLabel table (tokensOf line) x := by
  obtain ⟨label, m, k, ts, os, hs, -, ho, rfl⟩ := parseLine_eq_ok hp
  rcases instructionOf_error ho hx with ⟨hk, ht, v, hv, q, hq, hout, hpermitted⟩ | ⟨hk, ht, hrest⟩
  · exact .inl ⟨hk, mem_tokensOf_of_splitLabel hs ht, v, hv, q, ranges_of_sourceForm m q hq, hout, hpermitted⟩
  · exact .inr ⟨hk, mem_tokensOf_of_splitLabel hs ht, hrest⟩

end

end Sys2Proof.Machine
end

section
/-!
PROOFS. The obligations of 30_encoding.
-/

namespace Sys2Proof.Machine

/-- Settles O40: the word matches its instruction's row, and its fields give the operands back. -/
theorem decodingAnEncodedInstructionGivesItBack : Obligations.DecodingAnEncodedInstructionGivesItBack := by
  refine fun own i => ⟨fun w h => ?_, ?_⟩
  · obtain ⟨he, rfl⟩ := encode_eq_some_iff.mp h
    exact decode_encodeWord he
  · rw [← encodable_iff]
    exact ⟨fun ⟨w, h⟩ => (encode_eq_some_iff.mp h).1, fun h => ⟨_, encode_eq_some_iff.mpr ⟨h, rfl⟩⟩⟩

/-- Settles O41: a row's fixed bits and the fields make up the whole word. -/
theorem encodingADecodedWordGivesItBack : Obligations.EncodingADecodedWordGivesItBack :=
  fun _ _ _ => encode_of_decode

/-- Settles O42: each row conflicts with the opcode or fixes the reserved field. -/
theorem reservedWordsAreNoInstructions : Obligations.ReservedWordsAreNoInstructions := by
  intro own w
  refine ⟨fun hop hc => ?_, fun op hmem hop h => ?_, fun op hmem hop h => ?_, fun hop h => ?_, fun op hmem hop h => ?_,
    fun op hmem hop h => ?_, fun hop h => ?_, fun hop h => ?_⟩
  · exact decode_eq_noSuchInstruction (allowed := fun c => c.toNat ≤ 13) (List.mem_singleton_self _) hop
      (Nat.not_le.mpr hc) (by decide)
  · exact decode_eq_noSuchInstruction (allowed := (· = 0#6)) hmem hop h (by decide)
  · exact decode_eq_noSuchInstruction (allowed := (· = 0#5)) hmem hop h (by decide)
  · rcases h with h | h
    · exact decode_eq_noSuchInstruction (allowed := (· = 0#11)) (List.mem_singleton_self _) hop h (by decide)
    · exact decode_eq_noSuchInstruction (allowed := (· = 0#5)) (List.mem_singleton_self _) hop h (by decide)
  · rcases h with h | h
    · exact decode_eq_noSuchInstruction (allowed := (· = 0b001000#6)) hmem hop h (by decide)
    · exact decode_eq_noSuchInstruction (allowed := (· = 0#5)) hmem hop h (by decide)
  · exact decode_eq_noSuchInstruction (allowed := (· = 0#2)) hmem hop h (by decide)
  · exact decode_eq_noSuchInstruction (allowed := (· = 0#11)) (List.mem_singleton_self _) hop h (by decide)
  · exact decode_eq_noSuchInstruction (allowed := (· = 0#6)) (List.mem_singleton_self _) hop h (by decide)

/-- Settles O44: the lexical forms one by one, then soundness and completeness of the compiler line by line. -/
theorem compiledProgramsAreWellFormed : Obligations.CompiledProgramsAreWellFormed := by
  refine ⟨⟨rfl, fun a ha hn => ?_, fun a b hn => ?_⟩, ⟨rfl, fun w hw hp => ?_,
    fun a b c hc => tokensOf_append_blank a b hc, fun a b c hc => tokensOf_append_punctuation a b hc⟩,
    ⟨readX_eq_some, readFloat_eq_some⟩, fun w v => ?_, isLabelName_iff,
    fun lines => ⟨fun p hc => ?_, compile_of_spells, fun es hc => ?_⟩⟩
  · have h := linesFrom_append_of_no_newline hn [] []
    rw [List.append_nil, List.nil_append] at h
    exact h.trans (if_neg (by simpa using ha))
  · exact linesFrom_append_of_no_newline hn [] ('\n' :: b)
  · have h := tokensFrom_append_of_plain hp [] []
    rw [List.append_nil, List.nil_append] at h
    exact h.trans (if_neg (by simpa using hw))
  · rw [readImmediate_eq_some]
    constructor
    · rintro ⟨ds, n, hn, hw⟩
      obtain ⟨hne, hdigits, hvalue⟩ := (readDecimal_eq_some ds n).mp hn
      exact ⟨ds, hne, hdigits, n, hvalue, hw⟩
    · rintro ⟨ds, hne, hdigits, n, hvalue, hw⟩
      exact ⟨ds, n, (readDecimal_eq_some ds n).mpr ⟨hne, hdigits, hvalue⟩, hw⟩
  · refine ⟨programWf_of_compile hc, records_length_of_compile hc, fun k r hr => ?_⟩
    obtain ⟨line, hl, hcl⟩ := record_of_compile hc hr
    obtain ⟨parsed, i, hp, -, hi, rfl⟩ := compileLine_eq_ok.mp hcl
    exact ⟨rfl, line, hl, lineSpells_of_parse hp hi⟩
  · refine ⟨(compile_eq_error.mp hc).1, (compile_eq_error.mp hc).2 ▸ compileFrom_errors_length 0, fun e he => ?_⟩
    obtain ⟨i, line, hl, hcl⟩ := (mem_errors_of_compile hc).mp he
    rw [compileLine_error_line hcl]
    exact ⟨Nat.le_add_left 1 i, (List.getElem?_eq_some_iff.mp hl).1⟩

/-- Settles O45: a text compiles or not, a launch is legal or not; with no program nothing is left to fetch. -/
theorem aTextWithErrorsNeverRuns : Obligations.ATextWithErrorsNeverRuns := by
  intro l e text
  rw [loadText]
  cases hc : compile (linesOf text) with
  | ok p =>
    refine ⟨fun q hq => ?_, nofun, fun s hs => .inl ⟨p, rfl, ?_⟩⟩
    · cases hq
      exact ⟨fun hl => if_pos hl, fun hl => if_neg (Bool.eq_false_iff.mp hl)⟩
    · simp only [loadProgram] at hs
      split at hs <;> cases hs
      exact ⟨rfl, rfl⟩
  | error es =>
    refine ⟨nofun, fun es' h => ?_, fun s hs => .inr ?_⟩
    · cases h
      exact ⟨fun hl => ⟨_, if_pos hl, rfl, rfl⟩, fun hl => if_neg (Bool.eq_false_iff.mp hl)⟩
    · simp only at hs
      split at hs <;> cases hs
      obtain ⟨he, -, hk⟩ := anEndedRunDoesNothing (State.withoutProgram l e es) rfl (Nat.le_refl 0)
      exact ⟨rfl, (compile_eq_error.mp hc).1, he, hk rfl, steps_of_still he (hk rfl)⟩

/-- Settles O46: a load is accepted or refused as a whole. -/
theorem wordLoaderDecodesEveryWordOrRefuses : Obligations.WordLoaderDecodesEveryWordOrRefuses := by
  intro l e ws
  rcases loadWords_cases l e ws with ⟨ha, hl, is, hd, hn⟩ | ⟨hbad, x, hx⟩
  · refine ⟨fun s hs => ?_, fun _ _ => ⟨_, hn⟩, fun k w hw hbad => ?_, fun h => ?_⟩
    · cases hn.symm.trans hs
      have hlen := (bindFrom_length is 1).trans (decodeWordsFrom_ok ws 0 is hd).1
      refine ⟨rfl, programWf_of_words ha hd, hlen, fun k w hw => ?_⟩
      obtain ⟨i, hdi, hr⟩ := decodedRecord_of_word hd hw
      exact ⟨_, hr, hdi, rfl, rfl⟩
    · obtain ⟨i, hdi, ht⟩ := ha k w hw
      rcases hbad with ⟨why, h⟩ | ⟨j, target, h, hj, hlt⟩
      · cases hdi.symm.trans h
      · cases hdi.symm.trans h
        exact absurd ((targetOk_iff _ _).mp ht target hj) (Nat.not_lt.mpr hlt)
    · exact absurd hl (Bool.eq_false_iff.mp h)
  · refine ⟨fun s hs => (nomatch hx.symm.trans hs), fun h hl => absurd ⟨fun k w hw => ?_, hl⟩ hbad,
      fun _ _ _ _ => ⟨x, hx⟩, fun _ => ⟨x, hx⟩⟩
    obtain ⟨i, hdi, ht⟩ := h k w hw
    exact ⟨i, hdi, (targetOk_iff _ _).mpr ht⟩

/-- Settles O58: the errors of the operands, of the checks and of a line, and that a compile reports them. -/
theorem parseErrorsCarryTheTokenAndThePermittedSet : Obligations.ParseErrorsCarryTheTokenAndThePermittedSet := by
  refine ⟨fun es ts x => matchTokens_error, fun c form ts => ⟨fun x => parseOperands_of_error, fun os extra rest h =>
    ⟨fun hf => parseOperands_of_extra hf h, ?_, ?_⟩⟩, fun p v t => ⟨fun h => if_pos h, fun h => if_neg (by simp [h])⟩,
    fun table name => ⟨fun i h => ?_, fun h => ?_⟩, fun line label ts start hs hstart => ⟨?_, fun hl => ?_⟩,
    fun lines es hc => ⟨fun i line x hl hp => ?_, fun e he => ?_⟩⟩
  · rintro f rfl hne
    exact (parseOperands_of_wide h).trans (if_neg hne)
  · rintro f rfl rfl
    rw [parseOperands_of_wide h, parseWideTail, if_pos rfl]
    exact ⟨fun x hx => by rw [hx], fun tail more last hx => by rw [hx]; rfl⟩
  · rw [resolveLabel, h]
  · rw [resolveLabel, h]
  · rintro name rfl hn
    exact parseLine_badLabel hs hn
  · obtain rfl : start = lineStart label := hstart.trans (by cases label <;> rfl)
    refine ⟨?_, ?_⟩
    · rintro rfl
      exact parseLine_noInstruction hs hl
    · rintro t rest rfl
      refine ⟨parseLine_noMnemonic hs hl, ?_⟩
      rintro m - c rfl
      rw [parseLine_mnemonic hs hl]
      exact ⟨fun x hx => by rw [hx]; rfl, fun os hos => by rw [hos]; rfl⟩
  · exact (mem_errors_of_compile hc).mpr ⟨i, line, hl, compileLine_of_parse_error hp⟩
  · obtain ⟨i, line, hl, hcl⟩ := (mem_errors_of_compile hc).mp he
    refine ⟨i, line, compileLine_error_line hcl, hl, ?_⟩
    rcases compileLine_error_cases hcl with ⟨x, hx, rfl⟩ | ⟨p, hp, ⟨name, hr, rfl⟩ | ⟨x, hx, rfl⟩⟩
    · exact .inl hx
    · obtain ⟨hd, hearlier⟩ := earlier_of_redefines hl hr
      exact .inr ⟨⟨p, hp⟩, .inl ⟨rfl, rfl, hd, hearlier⟩⟩
    · rcases instruction_error_of_parse hp hx with hout | hno
      · exact .inr ⟨⟨p, hp⟩, .inr (.inl hout)⟩
      · exact .inr ⟨⟨p, hp⟩, .inr (.inr ⟨hno.1, hno.2.1, hno.undefined⟩)⟩

/-- Settles O43, by evaluation of the decoder on each word. -/
theorem exampleWordsDecodeAsTheSpecSays : Obligations.ExampleWordsDecodeAsTheSpecSays :=
  ⟨rfl, rfl, rfl, rfl, rfl, rfl, rfl, rfl, rfl, rfl, rfl, rfl, rfl⟩

/-- Settles O59: each clause is a row of a table of the model, or the lemma on what the check says. -/
theorem eachInstructionHasItsRowOfTheTables : Obligations.EachInstructionHasItsRowOfTheTables := by
  intro d n m t s k q o a b
  refine ⟨?aluRegs, ?aluImm, rfl, rfl, ?loads, ?stores, rfl, ?oneSource, ?noField, rfl, ?names, ?otherNames, ?branches,
    ?imm12, ?shift, ?wide, ?offset, ?noImmediate, ?_, ?_, ?_, ?_, ?_, ?_, ?_, ?_, ?_, ?_, ?_, ?_, ?_, ?_, recordWf_iff,
    programWf_iff⟩
  case aluRegs | aluImm | loads | stores | oneSource | noField | names | otherNames | noImmediate =>
    simp only [List.forall_mem_cons, List.not_mem_nil, false_imp_iff, implies_true, and_true]
    and_intros <;> rfl
  case branches =>
    have near {i : Instr} (h : i.target? = some k ∧ i.displacementBits = 18 + 1) own :=
      reachable_iff_of_bits (own := own) h
    have far {i : Instr} (h : i.target? = some k ∧ i.displacementBits = 25 + 1) own :=
      reachable_iff_of_bits (own := own) h
    simp only [List.forall_mem_cons]
    refine ⟨⟨rfl, rfl, rfl, far ⟨rfl, rfl⟩⟩, ⟨rfl, rfl, rfl, far ⟨rfl, rfl⟩⟩, ?_, ?_, ?_, ?_, ?_, ?_, ?_, ?_, ?_, ?_, ?_,
      ?_, ?_, ?_, ?_, ?_, List.forall_mem_nil _⟩
    all_goals exact ⟨rfl, rfl, rfl, near ⟨rfl, rfl⟩⟩
  case imm12 => simp [Instr.immediatesOk, permittedImm12_allows, Instr.target?]
  case shift => simp [Instr.immediatesOk, permittedShift_allows, Instr.target?]
  case wide => simp [Instr.immediatesOk, permittedWide_allows, permittedQuadrant_allows, Instr.target?]
  case offset =>
    simp only [List.forall_mem_cons, List.not_mem_nil, false_imp_iff, implies_true, and_true]
    and_intros <;> exact permittedOffset_allows o
  all_goals decide

end Sys2Proof.Machine
end

section
/-!
PROOFS. No tick stops the model (70_reset R323).
-/

namespace Sys2Proof.Machine

/-- Every tick answers a next state. -/
theorem clock_eq_next (s : State) : ∃ t, clock s = .next t := by
  rcases clock_cases s with ⟨_, h⟩ | ⟨_, _, _, h⟩ | ⟨_, _, _, h⟩ | ⟨_, _, _, _, h⟩ | ⟨_, _, _, _, _, _, _, h⟩
    | ⟨r, _, _, _, _, h⟩
  · exact ⟨_, h⟩
  · exact ⟨_, h⟩
  · exact ⟨_, h⟩
  · exact ⟨_, h⟩
  · exact ⟨_, h⟩
  · obtain ⟨_, _, ⟨_, hf⟩ | ⟨_, hf⟩⟩ := fetchTick_cases s r
    · exact ⟨_, h.trans hf⟩
    · exact ⟨_, h.trans hf⟩

end Sys2Proof.Machine
end

section
/-!
PROOFS. The flags of the integer ALU: those of a logical result, and as numbers those of a sum and of a difference, with a
register or an immediate as second operand (40_alu_flags R132 to R138).
-/

namespace Sys2Proof.Machine

/-- A write-back with flags, of a value and flags given by other names. -/
theorem FlaggedResult.writeBack_of_eq {s : State} {d : Reg} {v w : Word} {f g : Flags} (hv : v = w) (hf : f = g) :
    FlaggedResult s ((s.writeX d v).setFlags f).advance d w g := by
  rw [← hv, ← hf]
  exact .writeBack s d v f

/-- N is bit 63 of the result (R132). -/
theorem flagN_eq_getLsbD (r : Word) : flagN r = r.getLsbD 63 := BitVec.msb_eq_getLsbD_last r

/-- The flags of a logical result: its bit 63, zero, and C and V cleared (R138). -/
theorem logicFlags_eq (v : Word) :
    logicFlags v = { n := v.getLsbD 63, z := decide (v = 0#64), c := false, v := false } := by
  rw [logicFlags, flagN_eq_getLsbD, flagZ]

/-- The flags of a sum: sign, zero, carry out and signed overflow (R136). -/
theorem addFlags_flags (a b : Word) : (addFlags a b).2 =
    { n := decide (2 ^ 63 ≤ (BitVec.ofNat 64 (a.toNat + b.toNat)).toNat)
      z := decide ((BitVec.ofNat 64 (a.toNat + b.toNat)).toNat = 0)
      c := decide (2 ^ 64 ≤ a.toNat + b.toNat)
      v := decide (a.toInt + b.toInt < -2 ^ 63 ∨ 2 ^ 63 ≤ a.toInt + b.toInt) } := by
  rw [← BitVec.add_def, ← flagN_eq, ← flagZ_eq, ← flagC_add, ← flagV_add]
  rfl

/-- The flags of a difference, which is the sum with the negated operand (R137 R141). -/
theorem subFlags_flags (a b : Word) : (subFlags a b).2 =
    { n := decide (2 ^ 63 ≤ (BitVec.ofInt 64 (a.toNat - b.toNat)).toNat)
      z := decide (a.toNat = b.toNat)
      c := decide (b.toNat ≠ 0 ∧ b.toNat ≤ a.toNat)
      v := xor (decide (b.toNat = 2 ^ 63)) (decide (a.toInt - b.toInt < -2 ^ 63 ∨ 2 ^ 63 ≤ a.toInt - b.toInt)) } := by
  rw [← add_neg_eq_ofInt, ← flagN_eq, ← flagZ_sub, ← flagC_sub, ← flagV_sub]
  rfl

/-- A sum with an immediate never overflows below. -/
theorem addFlags_flags_imm (a : Word) {imm : Nat} (h : imm ≤ 4095) : (addFlags a (immOperand imm)).2 =
    { n := decide (2 ^ 63 ≤ (BitVec.ofNat 64 (a.toNat + imm)).toNat)
      z := decide ((BitVec.ofNat 64 (a.toNat + imm)).toNat = 0)
      c := decide (2 ^ 64 ≤ a.toNat + imm)
      v := decide (2 ^ 63 ≤ a.toInt + imm) } := by
  have hlow : ¬ a.toInt + imm < -2 ^ 63 := by have := BitVec.le_toInt a; omega
  rw [addFlags_flags, immOperand_toNat h, immOperand_toInt h]
  simp only [hlow, false_or]

/-- A difference with an immediate never overflows above, and its V is never inverted. -/
theorem subFlags_flags_imm (a : Word) {imm : Nat} (h : imm ≤ 4095) : (subFlags a (immOperand imm)).2 =
    { n := decide (2 ^ 63 ≤ (BitVec.ofInt 64 (a.toNat - imm)).toNat)
      z := decide (a.toNat = imm)
      c := decide (imm ≠ 0 ∧ imm ≤ a.toNat)
      v := decide (a.toInt - imm < -2 ^ 63) } := by
  have hhigh : ¬ 2 ^ 63 ≤ a.toInt - imm := by have := BitVec.toInt_lt (x := a); omega
  have hne : ¬ imm = 2 ^ 63 := by omega
  rw [subFlags_flags, immOperand_toNat h, immOperand_toInt h]
  simp only [hhigh, hne, or_false, decide_false, Bool.false_xor]

end Sys2Proof.Machine
end

section
/-!
PROOFS. The branches on the flags of a difference: what each condition says of the two operands (46_branch R243 to R252).
-/

namespace Sys2Proof.Machine

/-- B.cond answers a next state, which records whether the condition held (46_branch R236). -/
theorem branchCond_taken {cc : Cond} {s : State} {P : Prop} [Decidable P] (target : Nat)
    (h : condHolds s.params.condLT s.flags cc = true ↔ P) :
    ∃ u, branchCond cc target s = .next u ∧ u.branchTaken = decide P := by
  obtain ⟨u, hu, hb⟩ := BranchResult.branchIf s (condHolds s.params.condLT s.flags cc) target
  exact ⟨u, hu, hb.control.branchTaken.trans (Bool.eq_iff_iff.mpr (h.trans decide_eq_true_iff.symm))⟩

theorem subFlags_z (a b : Word) : (subFlags a b).2.z = true ↔ a.toNat = b.toNat := by
  rw [subFlags_flags, decide_eq_true_iff]

theorem subFlags_c (a b : Word) : (subFlags a b).2.c = true ↔ b.toNat ≠ 0 ∧ b.toNat ≤ a.toNat := by
  rw [subFlags_flags, decide_eq_true_iff]

/-- But for the second operand `2^63`, N equals V exactly when the first operand is not below the second, signed: a
difference that overflows has the wrong sign. -/
theorem subFlags_n_eq_v {a b : Word} (h : b.toNat ≠ 2 ^ 63) :
    ((subFlags a b).2.n == (subFlags a b).2.v) = true ↔ b.toInt ≤ a.toInt := by
  have ha := a.isLt
  have hb := b.isLt
  rw [subFlags_flags, decide_eq_false h, Bool.false_xor, beq_iff_eq, decide_eq_decide, BitVec.toNat_ofInt,
    BitVec.toInt_eq_toNat_cond, BitVec.toInt_eq_toNat_cond]
  split <;> split <;> omega

variable {a b : Word} (lt : BitVec 16)

theorem condHolds_lo_subFlags : condHolds lt (subFlags a b).2 .lo = true ↔ b.toNat = 0 ∨ a.toNat < b.toNat := by
  rw [condHolds, Bool.not_eq_true', ← Bool.not_eq_true, subFlags_c]
  omega

theorem condHolds_hi_subFlags : condHolds lt (subFlags a b).2 .hi = true ↔ b.toNat ≠ 0 ∧ b.toNat < a.toNat := by
  rw [condHolds, Bool.and_eq_true, Bool.not_eq_true', ← Bool.not_eq_true, subFlags_c, subFlags_z]
  omega

/-- LS is the negation of HI (46_branch R248). -/
theorem condHolds_ls_subFlags : condHolds lt (subFlags a b).2 .ls = true ↔ b.toNat = 0 ∨ a.toNat ≤ b.toNat := by
  have negation : condHolds lt (subFlags a b).2 .ls = !condHolds lt (subFlags a b).2 .hi := rfl
  rw [negation, Bool.not_eq_true', ← Bool.not_eq_true, condHolds_hi_subFlags]
  omega

theorem condHolds_gt_subFlags (h : b.toNat ≠ 2 ^ 63) :
    condHolds lt (subFlags a b).2 .gt = true ↔ b.toInt < a.toInt := by
  rw [condHolds, Bool.and_eq_true, Bool.not_eq_true', ← Bool.not_eq_true, subFlags_n_eq_v h, subFlags_z, BitVec.toNat_inj,
    ← BitVec.toInt_inj]
  omega

/-- LE is the negation of GT (46_branch R252). -/
theorem condHolds_le_subFlags (h : b.toNat ≠ 2 ^ 63) :
    condHolds lt (subFlags a b).2 .le = true ↔ a.toInt ≤ b.toInt := by
  have negation : condHolds lt (subFlags a b).2 .le = !condHolds lt (subFlags a b).2 .gt := rfl
  rw [negation, Bool.not_eq_true', ← Bool.not_eq_true, condHolds_gt_subFlags lt h, Int.not_lt]

end Sys2Proof.Machine
end

section
/-!
PROOFS. The obligations of 40_alu_flags.
-/

namespace Sys2Proof.Machine

/-- Settles O29: an instruction has one of its effects, and the engine's step is nothing, an instruction or a shift. -/
theorem everyInstructionHasANextState : Obligations.EveryInstructionHasANextState := by
  refine ⟨fun i s => ?_, fun s => ?_⟩
  · obtain ⟨t, ht, _⟩ := exec_effect i s
    exact ⟨t, ht⟩
  · cases he : s.engine with
    | singleCycle =>
      obtain ⟨t, ht, _⟩ := executeInstruction_effect s
      exact ⟨t, (step_singleCycle he).trans ht⟩
    | pipelined =>
      obtain ⟨t, ht⟩ := clock_eq_next s
      exact ⟨t, (step_pipelined he).trans ht⟩

/-- Settles O4: the laws of the flags of a sum. -/
theorem addsFlagsAreCarryAndSignedOverflow : Obligations.AddsFlagsAreCarryAndSignedOverflow := by
  intro s d n m imm himm
  refine ⟨⟨_, _, rfl, rfl, .writeBack_of_eq (BitVec.add_def ..) (addFlags_flags ..)⟩,
    ⟨_, _, rfl, rfl, .writeBack_of_eq ?_ (addFlags_flags_imm _ himm)⟩⟩
  exact (BitVec.add_def ..).trans (by rw [immOperand_toNat himm])

/-- Settles O5: the laws of the flags of a difference. -/
theorem subsFlagsFollowTheNegatedAddition : Obligations.SubsFlagsFollowTheNegatedAddition := by
  intro s d n m imm himm
  refine ⟨⟨_, _, rfl, rfl, .writeBack_of_eq (add_neg_eq_ofInt ..) (subFlags_flags ..)⟩,
    ⟨_, _, rfl, rfl, .writeBack_of_eq ?_ (subFlags_flags_imm _ himm)⟩⟩
  exact (add_neg_eq_ofInt ..).trans (by rw [immOperand_toNat himm])

/-- Settles O8: the bits of the conjunction, and N as its bit 63. -/
theorem andsClearsCarryAndOverflow : Obligations.AndsClearsCarryAndOverflow := by
  intro s d n m imm
  refine ⟨⟨_, _, rfl, fun k _ => BitVec.getLsbD_and, .writeBack_of_eq rfl (logicFlags_eq _)⟩,
    ⟨_, _, rfl, fun k hk => ?_, .writeBack_of_eq rfl (logicFlags_eq _)⟩⟩
  rw [BitVec.getLsbD_and, immOperand, BitVec.getLsbD_ofNat, decide_eq_true hk, Bool.true_and]

/-- Settles O6: each of the six sets N and Z by the same two laws, of its own result. -/
theorem integerNAndZComeFromTheResult : Obligations.IntegerNAndZComeFromTheResult := by
  intro s d n m imm
  simp only [BitVec.sub_eq_add_neg]
  exact ⟨⟨_, rfl, flagN_eq_getLsbD _, rfl⟩, ⟨_, rfl, flagN_eq_getLsbD _, rfl⟩, ⟨_, rfl, flagN_eq_getLsbD _, rfl⟩,
    ⟨_, rfl, flagN_eq_getLsbD _, rfl⟩, ⟨_, rfl, flagN_eq_getLsbD _, rfl⟩, ⟨_, rfl, flagN_eq_getLsbD _, rfl⟩⟩

/-- Settles O27: each branch tests a condition of the flags that SUBS has set. -/
theorem branchesAfterSubsCompareTheOperands : Obligations.BranchesAfterSubsCompareTheOperands := by
  intro s d n m target
  exact ⟨_, rfl, branchCond_taken target (subFlags_z ..), branchCond_taken target (subFlags_c ..),
    branchCond_taken target (condHolds_lo_subFlags _), branchCond_taken target (condHolds_hi_subFlags _),
    branchCond_taken target (condHolds_ls_subFlags _), fun h => ⟨branchCond_taken target (subFlags_n_eq_v h),
      branchCond_taken target (condHolds_gt_subFlags _ h), branchCond_taken target (condHolds_le_subFlags _ h)⟩⟩

end Sys2Proof.Machine
end

section
/-!
PROOFS. The results of the integer ALU as numbers, with an immediate of any size (40_alu_flags R131 R136 R137 R140).
-/

namespace Sys2Proof.Machine

/-- The result of a sum (R136). -/
theorem addFlags_result (a b : Word) : (addFlags a b).1 = BitVec.ofNat 64 (a.toNat + b.toNat) :=
  BitVec.add_def ..

/-- An immediate above the modulus is reduced before the sum, which changes nothing modulo `2^64`. -/
theorem addFlags_result_imm (a : Word) (imm : Nat) :
    (addFlags a (immOperand imm)).1 = BitVec.ofNat 64 (a.toNat + imm) := by
  rw [BitVec.ofNat_add, BitVec.ofNat_toNat, BitVec.setWidth_eq]
  rfl

/-- The result of a difference (R137). -/
theorem subFlags_result (a b : Word) : (subFlags a b).1 = BitVec.ofInt 64 (a.toNat - b.toNat) :=
  add_neg_eq_ofInt ..

/-- An immediate above the modulus is reduced before the difference, which changes nothing modulo `2^64`. -/
theorem subFlags_result_imm (a : Word) (imm : Nat) :
    (subFlags a (immOperand imm)).1 = BitVec.ofInt 64 (a.toNat - imm) := by
  rw [Int.sub_eq_add_neg, BitVec.ofInt_add, BitVec.ofInt_neg, BitVec.ofInt_natCast, BitVec.ofInt_natCast,
    BitVec.ofNat_toNat, BitVec.setWidth_eq]
  rfl

/-- A write-back without flags answers a next state, which holds the value, given by another name (R131). -/
theorem writeBack_result (s : State) (d : Reg) {v w : Word} (h : v = w) :
    ∃ t, writeBack d v s = .next t ∧ RegisterResult s t d w :=
  ⟨_, rfl, h ▸ .writeBack s d v⟩

end Sys2Proof.Machine
end

section
/-!
PROOFS. The obligation of 41_arith.
-/

namespace Sys2Proof.Machine

/-- Settles O3: each of the four is a write-back, of a sum or of a difference. -/
theorem addAndSubtractWriteTheWrappedResult : Obligations.AddAndSubtractWriteTheWrappedResult := by
  intro s d n m imm
  exact ⟨writeBack_result s d (addFlags_result ..), writeBack_result s d (addFlags_result_imm ..),
    writeBack_result s d (subFlags_result ..), writeBack_result s d (subFlags_result_imm ..)⟩

end Sys2Proof.Machine
end

section
/-!
PROOFS. The bits of the logical results, with an immediate of any size (42_logical R170 R172 R174 R175 R176 R177).
-/

namespace Sys2Proof.Machine

/-- An immediate is zero-extended; of one above the modulus the low 64 bits count. -/
theorem immOperand_getLsbD (imm : Nat) {k : Nat} (hk : k < 64) : (immOperand imm).getLsbD k = imm.testBit k := by
  rw [immOperand, BitVec.getLsbD_ofNat, decide_eq_true hk, Bool.true_and]

/-- A write-back without flags answers a next state, which holds the value, given by its bits. -/
theorem writeBack_bits (s : State) (d : Reg) {v : Word} {bit : Nat → Bool} (h : ∀ k < 64, v.getLsbD k = bit k) :
    ∃ t w, writeBack d v s = .next t ∧ RegisterResult s t d w ∧ ∀ k < 64, w.getLsbD k = bit k :=
  ⟨_, v, rfl, .writeBack s d v, h⟩

end Sys2Proof.Machine
end

section
/-!
PROOFS. The obligation of 42_logical.
-/

namespace Sys2Proof.Machine

/-- Settles O7: each of the six is a write-back, of a value known by its bits. -/
theorem logicalResultsAreBitwise : Obligations.LogicalResultsAreBitwise := by
  intro s d n m imm
  refine ⟨writeBack_bits s d fun k _ => BitVec.getLsbD_and, writeBack_bits s d fun k hk => ?andi,
    writeBack_bits s d fun k _ => BitVec.getLsbD_or, writeBack_bits s d fun k hk => ?orri,
    writeBack_bits s d fun k _ => BitVec.getLsbD_xor, writeBack_bits s d fun k hk => ?eori⟩
  case andi => rw [BitVec.getLsbD_and, immOperand_getLsbD imm hk]
  case orri => rw [BitVec.getLsbD_or, immOperand_getLsbD imm hk]
  case eori => rw [BitVec.getLsbD_xor, immOperand_getLsbD imm hk]

end Sys2Proof.Machine
end

section
/-!
PROOFS. The shifts as arithmetic and the wide moves by their bits: what a shift does to the number, where an immediate lands
and which bits MOVK replaces (43_shift_wide R190 to R193).
-/

namespace Sys2Proof.Machine

/-- LSL multiplies and drops what passes bit 63 (R190). -/
theorem shiftLeft_toNat (a : Word) (sh : Nat) : (a <<< sh).toNat = a.toNat * 2 ^ sh % 2 ^ 64 := by
  rw [BitVec.toNat_shiftLeft, Nat.shiftLeft_eq]

/-- LSR divides, rounding down (R191). -/
theorem ushiftRight_toNat (a : Word) (sh : Nat) : (a >>> sh).toNat = a.toNat / 2 ^ sh := by
  rw [BitVec.toNat_ushiftRight, Nat.shiftRight_eq_div_pow]

/-- A 16-bit immediate, moved by at most 48, loses no bit, so the product is not reduced (R192). -/
theorem wideOperand_toNat {imm q : Nat} (himm : imm < 2 ^ 16) (hq : q ≤ 48) :
    (wideOperand imm q).toNat = imm * 2 ^ q := by
  have hfits : imm * 2 ^ q < 2 ^ 64 := calc
    imm * 2 ^ q < 2 ^ 16 * 2 ^ q := Nat.mul_lt_mul_of_pos_right himm (Nat.two_pow_pos q)
    _ = 2 ^ (16 + q) := (Nat.pow_add ..).symm
    _ ≤ 2 ^ 64 := Nat.pow_le_pow_right Nat.two_pos (by omega)
  have hword : imm < 2 ^ 64 := Nat.lt_trans himm (by decide)
  rw [wideOperand, shiftLeft_toNat, BitVec.toNat_ofNat, Nat.mod_eq_of_lt hword, Nat.mod_eq_of_lt hfits]

/-- The bits of a wide operand are the immediate's, inside the quadrant at `q`; beyond it a 16-bit immediate has none. -/
theorem wideOperand_getLsbD {imm : Nat} (himm : imm < 2 ^ 16) (q : Nat) {k : Nat} (hk : k < 64) :
    (wideOperand imm q).getLsbD k = (decide (q ≤ k ∧ k < q + 16) && imm.testBit (k - q)) := by
  have hindex : k - q < 64 := by omega
  rw [wideOperand, BitVec.getLsbD_shiftLeft, BitVec.getLsbD_ofNat]
  by_cases hlow : k < q
  · simp [hlow]
  · by_cases hin : k < q + 16
    · simp [hk, hindex, hin, Nat.not_lt.mp hlow]
    · have hhigh : 2 ^ 16 ≤ 2 ^ (k - q) := Nat.pow_le_pow_right Nat.two_pos (by omega)
      simp [hin, Nat.testBit_lt_two_pow (Nat.lt_of_lt_of_le himm hhigh)]

/-- MOVK's mask is the wide operand of sixteen ones, so its bits are those of the quadrant at `q` (R193). -/
theorem wideMask_getLsbD (q : Nat) {k : Nat} (hk : k < 64) :
    (wideMask q).getLsbD k = decide (q ≤ k ∧ k < q + 16) := by
  have hones : wideMask q = wideOperand (2 ^ 16 - 1) q := rfl
  rw [hones, wideOperand_getLsbD (by decide) q hk, Nat.testBit_two_pow_sub_one, Bool.and_eq_left_iff_imp, decide_eq_true_iff,
    decide_eq_true_iff]
  omega

/-- MOVK's result: the immediate's bits inside the quadrant, which the mask clears, the old bits outside, where the operand
has none (R193). -/
theorem movk_getLsbD (old : Word) {imm : Nat} (himm : imm < 2 ^ 16) (q : Nat) {k : Nat} (hk : k < 64) :
    (old &&& ~~~(wideMask q) ||| wideOperand imm q).getLsbD k
      = if q ≤ k ∧ k < q + 16 then imm.testBit (k - q) else old.getLsbD k := by
  rw [BitVec.getLsbD_or, BitVec.getLsbD_and, BitVec.getLsbD_not, wideMask_getLsbD q hk, wideOperand_getLsbD himm q hk]
  split
  case isTrue hin => simp [hin]
  case isFalse hout => simp [hout, hk]

/-- The quadrants all end at or below bit 63. -/
theorem quadrant_le {q : Nat} (hq : q ∈ [0, 16, 32, 48]) : q ≤ 48 := by
  simp only [List.mem_cons, List.not_mem_nil, or_false] at hq
  omega

/-- A write-back without flags answers a next state, which holds the value, given by its number. -/
theorem writeBack_toNat (s : State) (d : Reg) {v : Word} {x : Nat} (h : v.toNat = x) :
    ∃ t w, writeBack d v s = .next t ∧ w.toNat = x ∧ RegisterResult s t d w :=
  ⟨_, v, rfl, h, .writeBack s d v⟩

end Sys2Proof.Machine
end

section
/-!
PROOFS. The obligations of 43_shift_wide.
-/

namespace Sys2Proof.Machine

/-- Settles O9: either shift is a write-back, of a product or of a quotient. -/
theorem shiftsMultiplyAndDivideByPowersOfTwo : Obligations.ShiftsMultiplyAndDivideByPowersOfTwo := by
  intro s d n sh
  exact ⟨writeBack_toNat s d (shiftLeft_toNat ..), writeBack_toNat s d (ushiftRight_toNat ..)⟩

/-- Settles O10: MOVZ writes back the operand, known by its number, and MOVK the merge with it, known by its bits. -/
theorem wideMovesPlaceOneQuadrant : Obligations.WideMovesPlaceOneQuadrant := by
  intro s d imm q himm hq
  have hsixteen : imm < 2 ^ 16 := Nat.lt_succ_of_le himm
  exact ⟨writeBack_toNat s d (wideOperand_toNat hsixteen (quadrant_le hq)),
    writeBack_bits s d fun _ hk => movk_getLsbD _ hsixteen q hk⟩

end Sys2Proof.Machine
end

section
/-!
PROOFS. A store and then a load of the same address, and LDXR where nothing faults (44_load_store R201 R212, 45_exclusive
R221).
-/

namespace Sys2Proof.Machine

/-- A load that passes the base and the range check writes back. The range check tests the first and the last byte only, so
this is more than `loadRegister_result`, which asks that all the bytes lie in the data window. -/
theorem loadRegister_of_range {s : State} {n : Reg} {off : Int} {size : Nat} (t : Reg) (ext : Word → Word)
    (hb : s.baseReady n) (hc : checkRange s.params (effectiveAddress s n off) size = none) :
    loadRegister t n off size ext s
      = .next (s.writeX t (ext (fromBigEndian (s.mem.loadBytes (effectiveAddress s n off) size)))).advance := by
  simp only [loadRegister, baseFault_eq_none hb, State.memRead_of_range hc]

/-- A store that passes the base and the range check puts its bytes in memory and updates the monitor. -/
theorem storeRegister_of_range {s : State} {n : Reg} {off : Int} {size : Nat} (t : Reg) (hb : s.baseReady n)
    (hc : checkRange s.params (effectiveAddress s n off) size = none) :
    storeRegister t n off size s
      = .next ((s.setMem (s.mem.storeBytes (effectiveAddress s n off) (toBigEndian (s.readX t) size))).setMonitor
          (monitorAfterStore s.mon (effectiveAddress s n off) size)).advance := by
  simp only [storeRegister, baseFault_eq_none hb, State.memWrite_of_range _ hc]

/-- The low bytes of a value, stored and loaded again, are the value's low bits (R47 R48). -/
theorem fromBigEndian_loadBytes_storeBytes {m : Memory} (a v : Word) {size : Nat} (hw : Memory.wf m = true)
    (h8 : size ≤ 8) :
    fromBigEndian ((m.storeBytes a (toBigEndian v size)).loadBytes a size) = (v.extractLsb' 0 (8 * size)).setWidth 64 := by
  have hbytes := Memory.loadBytes_storeBytes a (toBigEndian v size) hw (by rw [length_toBigEndian]; omega)
  rw [length_toBigEndian] at hbytes
  rw [hbytes, fromBigEndian_toBigEndian, BitVec.setWidth_eq_extractLsb' (show 8 * size ≤ 64 by omega)]

/-- A store and a load of one size at one address both complete, and the register loaded holds the extension of the stored
low bits: neither the base check, nor the address, nor the range check reads what the store changes. -/
theorem storeRegister_loadRegister {s : State} {n m u : Reg} {off off' : Int} {size : Nat} (t : Reg) (ext : Word → Word)
    (hw : Memory.wf s.mem = true) (hn : s.baseReady n) (hm : s.baseReady m) (hu : u ≠ XZR)
    (ha : effectiveAddress s m off' = effectiveAddress s n off) (h8 : size ≤ 8)
    (hc : checkRange s.params (effectiveAddress s n off) size = none) :
    ∃ s₁ s₂, storeRegister t n off size s = .next s₁ ∧ loadRegister u m off' size ext s₁ = .next s₂
      ∧ s₂.readX u = ext (((s.readX t).extractLsb' 0 (8 * size)).setWidth 64) := by
  refine ⟨_, _, storeRegister_of_range t hn hc, loadRegister_of_range u ext hm (by rwa [← ha] at hc), ?_⟩
  have hread := fromBigEndian_loadBytes_storeBytes (effectiveAddress s n off) (s.readX t) hw h8
  rw [State.advance_readX, State.readX_writeX_self, if_neg hu, ← hread]
  exact congrArg (fun a => ext (fromBigEndian (Memory.loadBytes _ a size))) ha

/-- The word load's extension reads the low 32 bits only, so zeros put above them are not seen (R205). -/
theorem signExtendWord_setWidth (w : BitVec 32) : signExtendWord (w.setWidth 64) = w.signExtend 64 := by
  rw [signExtendWord, ← BitVec.setWidth_eq_extractLsb' (by decide), BitVec.setWidth_setWidth_of_le _ (by decide),
    BitVec.setWidth_eq]

/-- LDXR whose base and bytes are good writes the bytes' value back and tags the address (45_exclusive R221). -/
theorem execLdxr_result {s : State} {n : Reg} (t : Reg) (hb : s.baseReady n) (h : s.inData (s.readX n) 8) :
    execLdxr t n s = .next
      ((s.setMonitor (some (s.readX n))).writeX t (fromBigEndian (s.mem.loadBytes (s.readX n) 8))).advance := by
  simp only [execLdxr, baseFault_eq_none hb, State.memRead_of_range (h.checkRange (by decide))]

end Sys2Proof.Machine
end

section
/-!
PROOFS. The obligations of 44_load_store.
-/

namespace Sys2Proof.Machine

/-- Settles O14: one store and load at four sizes, whose extensions are none, of the sign, and twice none. -/
theorem storeThenLoadReturnsTheStoredBits : Obligations.StoreThenLoadReturnsTheStoredBits := by
  intro s t n u m off off' hw hn hm hu ha
  have pair := fun {size} ext => storeRegister_loadRegister (size := size) t ext hw hn hm hu ha
  refine ⟨fun h => ?doubleword, fun h => ?word, pair id (by decide), pair id (by decide)⟩
  case doubleword =>
    obtain ⟨s₁, s₂, hs, hl, hv⟩ := pair id (by decide) h
    exact ⟨s₁, s₂, hs, hl, by rw [hv]; simp⟩
  case word =>
    obtain ⟨s₁, s₂, hs, hl, hv⟩ := pair signExtendWord (by decide) h
    exact ⟨s₁, s₂, hs, hl, hv.trans (signExtendWord_setWidth _)⟩

/-- Settles O15: LDXR is a write-back in the state that has the tag. -/
theorem ldxrLoadsAndSetsTheTag : Obligations.LdxrLoadsAndSetsTheTag := by
  intro s t n hb h
  have value := isBigEndianValue_loadBytes h (by decide)
  have result := RegisterResult.writeBack (s.setMonitor (some (s.readX n))) t
    (fromBigEndian (s.mem.loadBytes (s.readX n) 8))
  exact ⟨_, _, execLdxr_result t hb h, value, result.registers, result.exclusive.mon, result.exclusive.stxrSuccess,
    result.flags, result.memory, ⟨rfl, rfl, rfl⟩, by constructor <;> rfl⟩

end Sys2Proof.Machine
end

section
/-!
PROOFS. STXR away from the tag, and what of one state makes an exclusive access good in another (45_exclusive R222 R224 R225,
44_load_store R203).
-/

namespace Sys2Proof.Machine

/-- STXR at an address that is not tagged, whose base is good, makes no access and reports 1 (45_exclusive R222). -/
theorem execStxr_of_untagged {s : State} {n : Reg} (t st : Reg) (hb : s.baseReady n) (hm : s.mon ≠ some (s.readX n)) :
    execStxr t st n s = .next ((s.setStxrSuccess false).writeX st 1#64).advance := by
  simp only [execStxr, baseFault_eq_none hb, if_neg hm]

/-- The stack-pointer check reads no register but the base. -/
theorem State.baseReady.of_readX_eq {s u : State} {n : Reg} (h : s.baseReady n) (hn : u.readX n = s.readX n) :
    u.baseReady n := by
  rintro rfl
  rw [hn]
  exact h rfl

/-- The data window is a matter of the parameters. -/
theorem State.inData.of_params_eq {s u : State} {a : Word} {size : Nat} (h : s.inData a size)
    (hp : u.params = s.params) : u.inData a size := by
  rw [State.inData, hp]
  exact h

/-- A range inside one that lies in the data window lies there too. -/
theorem State.inData.of_subrange {s : State} {a ea : Word} {size n : Nat} (h : s.inData a size)
    (hlo : a.toNat ≤ ea.toNat) (hhi : ea.toNat + n ≤ a.toNat + size) : s.inData ea n := by
  obtain ⟨hbase, hend⟩ := h
  exact ⟨by omega, by omega⟩

/-- A store whose bytes meet the tagged doubleword leaves no tag (R203). -/
theorem StoreResult.mon_of_overlap {s u : State} {a ea v : Word} {size : Nat} (h : StoreResult s u ea size v)
    (hm : s.mon = some a) (hlo : ea.toNat < a.toNat + 8) (hhi : a.toNat < ea.toNat + size) : u.mon = none := by
  rw [h.monitor a hm, if_pos ⟨hlo, hhi⟩]

end Sys2Proof.Machine
end

section
/-!
PROOFS. The obligations of 45_exclusive.
-/

namespace Sys2Proof.Machine

/-- Settles O17: the failed STXR is a write-back of 1 in the state whose success flag is false. -/
theorem stxrFailsElsewhereWithoutAccess : Obligations.StxrFailsElsewhereWithoutAccess := by
  intro s t st n hb hm
  have result := RegisterResult.writeBack (s.setStxrSuccess false) st 1#64
  exact ⟨_, execStxr_of_untagged t st hb hm, result.memory, result.registers, result.exclusive.mon,
    result.exclusive.stxrSuccess, result.flags, ⟨rfl, rfl, rfl⟩, by constructor <;> rfl⟩

/-- Settles O18: LDXR leaves a state with the tag in which the base is as good as before, so STXR succeeds there; the byte
store clears the tag and keeps the base, so STXR fails after it. -/
theorem exclusivePairSucceedsUnlessBroken : Obligations.ExclusivePairSucceedsUnlessBroken := by
  intro s t v st n w b off hw hb hd htn
  obtain ⟨s₁, _, hs₁, _, _, hm₁, _, _, _, _, hrest₁⟩ := ldxrLoadsAndSetsTheTag s t n hb hd
  have hbase : s₁.readX n = s.readX n := (exec_inversion hs₁).readX_of_not_dest fun ht => htn (Option.some.inj ht)
  have hw₁ : Memory.wf s₁.mem = true := (exec_inversion hs₁).mem_wf hw
  have hb₁ : s₁.baseReady n := hb.of_readX_eq hbase
  have hd₁ : s₁.inData (s₁.readX n) 8 := by
    rw [hbase]
    exact hd.of_params_eq hrest₁.params
  rw [← hbase] at hm₁ ⊢
  refine ⟨s₁, hs₁, ?unbroken, fun hbb hlo hhi => ?broken⟩
  case unbroken =>
    obtain ⟨s₂, hs₂, hstored, _, hm₂, hok, _⟩ := stxrSucceedsOnTheTaggedAddress s₁ v st n hw₁ hb₁ hm₁ hd₁
    exact ⟨s₂, hs₂, hok, hm₂, hstored⟩
  case broken =>
    have hbyte : s₁.inData (effectiveAddress s₁ b off) 1 := hd₁.of_subrange hlo hhi
    obtain ⟨s₂, hs₂, hstore⟩ := storeRegister_result (t := w) hw₁ hbb hbyte (by decide) (by decide)
    have hm₂ : s₂.mon = none := hstore.mon_of_overlap hm₁ hhi (by omega)
    obtain ⟨s₃, hs₃, hsame, _, _, hfail, _⟩ :=
      stxrFailsElsewhereWithoutAccess s₂ v st n (hb₁.of_readX_eq (hstore.registers n)) (by simp [hm₂])
    exact ⟨s₂, s₃, hs₂, hs₃, hfail, hsame⟩

end Sys2Proof.Machine
end

section
/-!
PROOFS. The targets of BR, the link value of BL, and the conditions in the terms of the statements (46_branch R233 to R252).
-/

namespace Sys2Proof.Machine

/-- BR to a word-aligned address of the text segment jumps to the instruction there (R234). -/
theorem execBr_of_text {s : State} {n : Reg} (haligned : (s.readX n).toNat % 4 = 0)
    (hlo : s.params.textBase.toNat ≤ (s.readX n).toNat) (hhi : (s.readX n).toNat < s.params.textLimit.toNat) :
    execBr n s = .next (s.jump (((s.readX n).toNat - s.params.textBase.toNat) / 4)) := by
  simp only [execBr, (branchTargetFault_eq_none ..).mpr ⟨haligned, hlo, hhi⟩, indexOfAddress_eq hlo]

/-- BR takes the fault that its checks raise. -/
theorem execBr_of_fault {s : State} {n : Reg} {f : Fault} (h : branchTargetFault s.params (s.readX n) = some f) :
    ∃ u, execBr n s = .next u ∧ FaultEntry s u f :=
  ⟨s.takeFault f, by simp only [execBr, h], rfl⟩

/-- The alignment check comes first (60_exceptions R276). -/
theorem branchTargetFault_of_misaligned (p : Params) {a : Word} (h : a.toNat % 4 ≠ 0) :
    branchTargetFault p a = some (.pcAlignment a) := if_pos h

/-- An aligned address outside the text segment is the second fault. -/
theorem branchTargetFault_of_outside {p : Params} {a : Word} (haligned : a.toNat % 4 = 0)
    (hout : a.toNat < p.textBase.toNat ∨ p.textLimit.toNat ≤ a.toNat) :
    branchTargetFault p a = some (.segmentFault a) := by
  rw [branchTargetFault, if_neg (not_not.mpr haligned), if_pos (by rwa [BitVec.lt_def, BitVec.le_def])]

/-- BR through a register that holds the program counter of an index in the text segment sets that index. -/
theorem execBr_of_pcOf {s : State} {n : Reg} {k : Nat} (h : s.readX n = pcOf s.params k)
    (haligned : s.params.textBase.toNat % 4 = 0)
    (hhi : s.params.textBase.toNat + 4 * k < s.params.textLimit.toNat) : execBr n s = .next (s.jump k) := by
  have hlimit := s.params.textLimit.isLt
  have hread : (s.readX n).toNat = s.params.textBase.toNat + 4 * k := by rw [h, pcOf_toNat (by omega)]
  rw [execBr_of_text (by omega) (by omega) (by omega), hread, Nat.add_sub_cancel_left,
    Nat.mul_div_cancel_left k (by decide)]

/-- A branch to a label answers a next state; the statement gives its condition by another name (R235 R237). -/
theorem branchIf_result {s : State} {holds taken : Bool} (target : Nat) (h : holds = taken) :
    ∃ t, branchIf holds target s = .next t ∧ BranchResult s t taken target :=
  h ▸ BranchResult.branchIf s holds target

/-- B.cond answers a next state, which branches as its condition says (R236). -/
theorem branchCond_result {cc : Cond} {s : State} {taken : Bool} (target : Nat)
    (h : condHolds s.params.condLT s.flags cc = taken) :
    ∃ t, branchCond cc target s = .next t ∧ BranchResult s t taken target :=
  branchIf_result target h

variable (lt : BitVec 16) (f : Flags)

/-- LS: carry clear or zero set (R248). -/
theorem condHolds_ls : condHolds lt f .ls = (!f.c || f.z) := by
  rw [condHolds, Bool.not_and, Bool.not_not]

/-- GE: N equals V (R249). -/
theorem condHolds_ge : condHolds lt f .ge = decide (f.n = f.v) := Bool.beq_eq_decide_eq ..

/-- GT: not zero, and GE (R251). -/
theorem condHolds_gt : condHolds lt f .gt = (!f.z && decide (f.n = f.v)) := by
  rw [condHolds, Bool.beq_eq_decide_eq]

/-- LE: zero, or N differs from V (R252). -/
theorem condHolds_le : condHolds lt f .le = (f.z || decide (f.n ≠ f.v)) := by
  rw [condHolds, Bool.not_and, Bool.not_not, Bool.beq_eq_decide_eq, decide_not]

end Sys2Proof.Machine
end

section
/-!
PROOFS. The obligations of 46_branch.
-/

namespace Sys2Proof.Machine

/-- Settles O21: BR takes the fault that its two checks raise, in their order. -/
theorem branchToRegisterFaultsOnABadTarget : Obligations.BranchToRegisterFaultsOnABadTarget := by
  intro s n
  exact ⟨fun h => execBr_of_fault (branchTargetFault_of_misaligned _ h),
    fun h hout => execBr_of_fault (branchTargetFault_of_outside h hout)⟩

/-- Settles O23: each of the three is a branch to a label; a register is zero exactly when its number is. -/
theorem branchesToLabelsSetTheIndex : Obligations.BranchesToLabelsSetTheIndex := by
  intro s r target
  have hzero : s.readX r = 0#64 ↔ (s.readX r).toNat = 0 := BitVec.toNat_eq
  exact ⟨BranchResult.branchIf s true target, branchIf_result target (decide_eq_decide.mpr hzero),
    branchIf_result target (decide_eq_decide.mpr (not_congr hzero))⟩

/-- Settles O24: BL writes the program counter of the next index and jumps; BR turns that address back into the index. -/
theorem branchAndLinkSavesTheNextAddress : Obligations.BranchAndLinkSavesTheNextAddress := by
  intro s target
  have hlink : pcOf s.params (s.idx + 1) = BitVec.ofNat 64 (s.params.textBase.toNat + 4 * (s.idx + 1)) :=
    State.pc_eq s.advance
  have hwrites : WritesRegister s ((s.writeX LR (pcOf s.params (s.idx + 1))).jump target) LR
      (pcOf s.params (s.idx + 1)) := fun r => State.readX_writeX s LR r _
  exact ⟨_, rfl, hlink ▸ hwrites, rfl, fun _ => rfl, ⟨rfl, rfl⟩, ⟨rfl, rfl, rfl⟩, by constructor <;> rfl,
    fun haligned hhi => ⟨_, execBr_of_pcOf (hwrites LR) haligned hhi, rfl⟩⟩

/-- Settles O25: BR jumps to the distance of the address from the base, by fours. -/
theorem branchToRegisterConvertsTheAddress : Obligations.BranchToRegisterConvertsTheAddress := by
  intro s n haligned hlo hhi
  exact ⟨_, execBr_of_text haligned hlo hhi, .jump s _⟩

/-- Settles O26: each is B.cond on its condition; LS, GE, GT and LE are the four that the statement words in another way than
the model. -/
theorem conditionalBranchesFollowTheConditionTable : Obligations.ConditionalBranchesFollowTheConditionTable := by
  intro s target
  have branch := fun (cc : Cond) {taken} => branchCond_result (cc := cc) (s := s) (taken := taken) target
  exact ⟨branch .eq rfl, branch .ne rfl, branch .hs rfl, branch .lo rfl, branch .hi rfl, branch .ls (condHolds_ls ..),
    branch .ge (condHolds_ge ..), branch .lt rfl, branch .gt (condHolds_gt ..), branch .le (condHolds_le ..),
    branch .mi rfl, branch .pl rfl, branch .vs rfl, branch .vc rfl⟩

end Sys2Proof.Machine
end

section
/-!
PROOFS. All that a tick can do, as a relation: nothing, a fault taken, or one of the four shifts of the buffer (70_reset R323
to R327, R342).
-/

namespace Sys2Proof.Machine

/-- The four ticks that shift the buffer: a stall (R325), the end of the program (R324), a placeholder behind a taken branch
(R326), and a fetch whose instruction raised no fault (R327). -/
inductive ShiftTick (s : State) : State → Prop where
  | stall (hst : s.stallNext = true) : ShiftTick s (s.shiftTo s.buf.stalled)
  | drain (hst : s.stallNext = false) (hf : s.fetched = none) : ShiftTick s (s.shiftTo (s.buf.shiftIn none))
  | placeholder (r : Record) (p : InFlight) (hst : s.stallNext = false) (hf : s.fetched = some r)
      (hp : s.buf.slotIF = some p) (ht : p.taken = true) :
      ShiftTick s (s.shiftTo (s.buf.shiftIn (Machine.placeholder s p)))
  | fetch (r : Record) (u : State) (hst : s.stallNext = false) (hf : s.fetched = some r)
      (ht : ∀ p, s.buf.slotIF = some p → p.taken = false) (hu : executeInstruction s = .next u) (hok : u.err = none) :
      ShiftTick s (u.shiftTo (s.buf.fetchIn s.flushNext
        { record := r, before := s.snapshot, after := u.snapshot, fetchPC := s.pc, taken := u.branchTaken }))

/-- All that a tick can do. -/
inductive Tick (s : State) : State → Prop where
  /-- Nothing after a fault (60_exceptions R281). -/
  | halted (he : s.err.isSome = true) : Tick s s
  /-- Nothing once the program has ended and the buffer is empty (R324). -/
  | drained (he : s.err = none) (hf : s.fetched = none) (hb : s.buf = Buffer.empty) : Tick s s
  /-- The fetched instruction faults (R342). -/
  | fault (r : Record) (u : State) (he : s.err = none) (hst : s.stallNext = false) (hf : s.fetched = some r)
      (ht : ∀ p, s.buf.slotIF = some p → p.taken = false) (hu : executeInstruction s = .next u)
      (hbad : u.err.isSome = true) : Tick s u
  /-- The buffer shifts. -/
  | shift (u : State) (he : s.err = none) (hb : s.fetched = none → s.buf ≠ Buffer.empty) (h : ShiftTick s u) : Tick s u

/-- A next state of a tick is reached in one of these ways. -/
theorem tick_of_clock {s t : State} (h : clock s = .next t) : Tick s t := by
  rcases clock_cases s with ⟨he, h'⟩ | ⟨he, hf, hb, h'⟩ | ⟨he, hst, hb, h'⟩ | ⟨he, hst, hf, hb, h'⟩
    | ⟨r, p, he, hst, hf, hp, ht, h'⟩ | ⟨r, he, hst, hf, ht, h'⟩
  · cases h'.symm.trans h; exact .halted he
  · cases h'.symm.trans h; exact .drained he hf hb
  · cases h'.symm.trans h; exact .shift _ he hb (.stall hst)
  · cases h'.symm.trans h; exact .shift _ he (fun _ => hb) (.drain hst hf)
  · cases h'.symm.trans h; exact .shift _ he (by simp [hf]) (.placeholder r p hst hf hp ht)
  · obtain ⟨u, hu, ⟨hbad, hx⟩ | ⟨hok, hx⟩⟩ := fetchTick_cases s r
    · cases (h'.trans hx).symm.trans h; exact .fault r _ he hst hf ht hu hbad
    · cases (h'.trans hx).symm.trans h; exact .shift _ he (by simp [hf]) (.fetch r u hst hf ht hu hok)

/-- Each of these ways is what the tick then does. -/
theorem Tick.clock {s t : State} (h : Tick s t) : Machine.clock s = .next t := by
  cases h with
  | halted he => rw [Machine.clock, if_pos he]
  | drained he hf hb => simp [Machine.clock, he, hf, hb]
  | fault r u he hst hf ht hu hbad => rw [clock_of_fetch he hf hst ht, fetchTick_eq r hu, if_pos hbad]
  | shift u he hb h =>
    cases h with
    | stall hst => cases hf : s.fetched <;> simp [Machine.clock, he, hst, hf, hb]
    | drain hst hf => simp [Machine.clock, he, hst, hf, hb hf]
    | placeholder r p hst hf hp ht => simp [Machine.clock, he, hst, hf, previousTaken, hp, ht]
    | fetch r u hst hf ht hu hok => rw [clock_of_fetch he hf hst ht, fetchTick_eq r hu, if_neg (by simp [hok])]

/-- A tick whose state has no error before and after, and has something left to do, shifts the buffer. -/
theorem shiftTick_of_clock {s t : State} (he : s.err = none) (h : clock s = .next t) (hok : t.err = none)
    (hb : s.fetched = none → s.buf ≠ Buffer.empty) : ShiftTick s t := by
  cases tick_of_clock h with
  | halted hbad => simp [he] at hbad
  | drained _ hf hempty => exact absurd hempty (hb hf)
  | fault _ _ _ _ _ _ _ hbad => simp [hok] at hbad
  | shift _ _ _ h => exact h

/-- After a shift the pipeline registers and the detectors are those of the new buffer, whatever they were before. -/
theorem ShiftTick.pipeRegs {s t : State} (h : ShiftTick s t) : PipeRegs t := by
  cases h with
  | _ => exact .shiftTo _ _

/-- A tick that shifts raises no error. -/
theorem ShiftTick.err {s t : State} (h : ShiftTick s t) (he : s.err = none) : t.err = none := by
  cases h with
  | fetch _ _ _ _ _ _ hok => exact hok
  | _ => exact he

/-- A tick that shifts leaves the front end, or executes one instruction on it. -/
theorem ShiftTick.frontEnd {s t : State} (h : ShiftTick s t) :
    SameFrontEnd s t ∨ ∃ c, executeInstruction s = .next c ∧ SameFrontEnd c t := by
  cases h with
  | fetch _ u _ _ _ hu _ => exact .inr ⟨u, hu, (SameFrontEnd.refl u).shiftTo _⟩
  | _ => exact .inl ((SameFrontEnd.refl s).shiftTo _)

end Sys2Proof.Machine
end

section
/-!
PROOFS. What a fault changes, and that nothing steps after one (60_exceptions R274 R280 R281).
-/

namespace Sys2Proof.Machine

/-- Only the instructions that can fault touch the error, and a fault is all they do then (60_exceptions R275 R280). -/
theorem Effect.fault_of_err {i : Instr} {s t : State} (h : Effect i s t) (he : s.err = none) (hbad : t.err ≠ none) :
    canFault i ∧ ∃ f, FaultEntry s t f := by
  cases h with
  | fault f hc => exact ⟨hc, f, rfl⟩
  | _ => exact absurd he hbad

/-- An `executeInstruction` that sets the error is a fault entry. -/
theorem executeInstruction_faultEntry {s t : State} (h : executeInstruction s = .next t) (he : s.err = none)
    (hbad : t.err ≠ none) : ∃ f, FaultEntry s t f := by
  obtain ⟨u, hu, hc⟩ := executeInstruction_effect s
  cases hu.symm.trans h
  rcases hc with ⟨rfl, _⟩ | ⟨_, _, _, _, hx⟩
  · exact absurd he hbad
  · exact (hx.fault_of_err he hbad).2

/-- A command that drives an engine is a call of that engine, or refused (10_state R29). -/
theorem State.command_drive_cases (s : State) (fuel : Nat) :
    (s.command .executeInstruction = Machine.executeInstruction s
      ∨ s.command .executeInstruction = .refused .mixedEngines)
    ∧ (s.command (.run fuel) = Machine.run fuel s ∨ s.command (.run fuel) = .refused .mixedEngines)
    ∧ (s.command .clock = Machine.clock s ∨ s.command .clock = .refused .mixedEngines) := by
  cases heng : s.engine with
  | singleCycle => simp [State.command, heng]
  | pipelined => simp [State.command, heng]

/-- The line a fault records is that of the record at the index (60_exceptions R274). -/
theorem currentLine_of_record {s : State} {r : Record} (h : s.program.records[s.idx]? = some r) :
    s.currentLine = r.line := by
  simp only [State.currentLine, h]

end Sys2Proof.Machine
end

section
/-!
PROOFS. How long a stall and the drain of the buffer last (70_reset R324 R325 R335).
-/

namespace Sys2Proof.Machine

theorem SameFrontEnd.trans {s t u : State} (h : SameFrontEnd s t) (h' : SameFrontEnd t u) : SameFrontEnd s u := by
  constructor <;> simp only [h.x, h.d, h.flags, h.idx, h.mon, h.branchTaken, h.stxrSuccess, h.err, h.mem, h.program,
    h.params, h'.x, h'.d, h'.flags, h'.idx, h'.mon, h'.branchTaken, h'.stxrSuccess, h'.err, h'.mem, h'.program, h'.params]

/-- A pending stall of a state whose registers are those of its buffer stalls the next tick: a stall needs a record in EX or
MEM, so the buffer is not empty. -/
theorem PipeRegs.clock_of_stall {s : State} (h : PipeRegs s) (he : s.err = none) (hst : s.stallNext = true) :
    clock s = .next (s.shiftTo s.buf.stalled) := by
  refine Tick.clock (.shift _ he (fun _ hb => ?_) (.stall hst))
  have hocc := h.stall_occupied hst
  simp [hb, Buffer.empty] at hocc

/-- How many ticks it takes until the records in EX, MEM and WB have left WB; from 2 on a record stands in EX or MEM. -/
def Buffer.ticksBehindID (b : Buffer) : Nat :=
  max (3 * occupancy b.slotEX) (max (2 * occupancy b.slotMEM) (occupancy b.slotWB))

/-- A bound on the ticks that empty the buffer when nothing is fetched. A record in ID waits at most until EX and MEM are
empty, and then takes four ticks to leave; one in IF waits no longer, takes a tick to ID, finds the old ID in EX, and so
takes at most seven from there. -/
def Buffer.drainBound (b : Buffer) : Nat :=
  if occupancy b.slotIF ≠ 0 then 7 + (b.ticksBehindID - 1)
  else if occupancy b.slotID ≠ 0 then 4 + (b.ticksBehindID - 1)
  else b.ticksBehindID

theorem Buffer.ticksBehindID_le (b : Buffer) : b.ticksBehindID ≤ 3 := by
  have := occupancy_le_one b.slotEX
  have := occupancy_le_one b.slotMEM
  have := occupancy_le_one b.slotWB
  unfold Buffer.ticksBehindID
  omega

theorem Buffer.drainBound_le (b : Buffer) : b.drainBound ≤ 9 := by
  have := b.ticksBehindID_le
  unfold Buffer.drainBound
  split_ifs <;> omega

/-- Only the empty buffer needs no tick. -/
theorem Buffer.eq_empty_of_drainBound {b : Buffer} (h : b.drainBound = 0) : b = Buffer.empty := by
  obtain ⟨slotIF, slotID, slotEX, slotMEM, slotWB⟩ := b
  simp only [Buffer.drainBound, Buffer.ticksBehindID] at h
  split_ifs at h with hIF hID
  · omega
  · omega
  · obtain ⟨rfl, rfl⟩ : slotIF = none ∧ slotID = none :=
      ⟨occupancy_eq_zero.mp (not_not.mp hIF), occupancy_eq_zero.mp (not_not.mp hID)⟩
    obtain ⟨rfl, rfl, rfl⟩ : slotEX = none ∧ slotMEM = none ∧ slotWB = none := by
      simp only [← occupancy_eq_zero]
      omega
    rfl

/-- When a bubble enters EX, the records behind ID are one tick closer to their end. -/
theorem Buffer.ticksBehindID_stalled (b : Buffer) : b.stalled.ticksBehindID = b.ticksBehindID - 1 := by
  have := occupancy_le_one b.slotEX
  have := occupancy_le_one b.slotMEM
  have := occupancy_le_one b.slotWB
  simp only [Buffer.ticksBehindID, Buffer.stalled, occupancy_none]
  omega

/-- A stall with a record in EX or MEM lowers the bound. -/
theorem Buffer.drainBound_stalled {b : Buffer} (h : b.slotEX ≠ none ∨ b.slotMEM ≠ none) :
    b.stalled.drainBound < b.drainBound := by
  have hocc : 2 ≤ b.ticksBehindID := by
    simp only [ne_eq, ← occupancy_eq_zero] at h
    unfold Buffer.ticksBehindID
    omega
  have hIF : b.stalled.slotIF = b.slotIF := rfl
  have hID : b.stalled.slotID = b.slotID := rfl
  simp only [Buffer.drainBound, hIF, hID, b.ticksBehindID_stalled]
  split_ifs <;> omega

/-- A shift of a buffer with a record in it lowers the bound, when nothing is fetched. -/
theorem Buffer.drainBound_shiftIn {b : Buffer} (h : b ≠ Buffer.empty) :
    (b.shiftIn none).drainBound < b.drainBound := by
  have hle := (b.shiftIn none).ticksBehindID_le
  have hpos : b.drainBound ≠ 0 := fun h0 => h (Buffer.eq_empty_of_drainBound h0)
  have hstep : occupancy b.slotID = 0 → (b.shiftIn none).ticksBehindID = b.ticksBehindID - 1 := by
    intro hID
    rw [← b.ticksBehindID_stalled]
    simp only [Buffer.ticksBehindID, Buffer.shiftIn, Buffer.stalled, hID, occupancy_none]
  have hIF : (b.shiftIn none).slotIF = none := rfl
  have hID : (b.shiftIn none).slotID = b.slotIF := rfl
  simp only [Buffer.drainBound, hIF, hID, occupancy_none] at hpos ⊢
  split_ifs at hpos ⊢ <;> omega

/-- A tick at the end of the program leaves the front end, and lowers the bound unless that is 0. -/
theorem PipeRegs.drain_tick {s t : State} (h : PipeRegs s) (he : s.err = none) (hf : s.fetched = none)
    (ht : clock s = .next t) : SameFrontEnd s t ∧ t.buf.drainBound ≤ s.buf.drainBound - 1 := by
  cases tick_of_clock ht with
  | halted hbad => simp [he] at hbad
  | drained _ _ hb => exact ⟨.refl s, by rw [hb]; exact Nat.zero_le _⟩
  | fault _ _ _ _ hr => cases hf.symm.trans hr
  | shift _ _ hb hx =>
    refine ⟨?_, Nat.le_pred_of_lt ?_⟩
    · cases hx with
      | fetch _ _ _ hr => cases hf.symm.trans hr
      | _ => exact (SameFrontEnd.refl s).shiftTo _
    · cases hx with
      | stall hst => exact Buffer.drainBound_stalled (h.stall_occupied hst)
      | drain => exact Buffer.drainBound_shiftIn (hb hf)
      | placeholder _ _ _ hr => cases hf.symm.trans hr
      | fetch _ _ _ hr => cases hf.symm.trans hr

/-- From the end of the program as many ticks as the bound empty the buffer, and the front end is visible then. -/
theorem PipeInv.drains {n : Nat} {s : State} (h : PipeInv s) (heng : s.engine = .pipelined) (he : s.err = none)
    (hf : s.fetched = none) (hn : s.buf.drainBound ≤ n) :
    ∃ t, steps n s = .next t ∧ t.buf = Buffer.empty ∧ t.vis = t.snapshot ∧ SameFrontEnd s t := by
  induction n generalizing s with
  | zero =>
    have hb := Buffer.eq_empty_of_drainBound (Nat.le_zero.mp hn)
    exact ⟨s, rfl, hb, h.vis_of_empty hb, .refl s⟩
  | succ n ih =>
    obtain ⟨u, hu⟩ := clock_eq_next s
    have hstep : step s = .next u := (step_pipelined heng).trans hu
    obtain ⟨hsame, hlower⟩ := h.regs.drain_tick he hf hu
    obtain ⟨t, ht, hb, hvis, hrest⟩ := ih (h.clock hu) ((step_sameLoad hstep).engine.trans heng) (hsame.err.trans he)
      (hsame.fetched.trans hf) (by omega)
    exact ⟨t, by rw [steps, hstep]; exact ht, hb, hvis, hsame.trans hrest⟩

end Sys2Proof.Machine
end

section
/-!
PROOFS. The detectors as statements about the slots of the buffer (70_reset R329 to R340).
-/

namespace Sys2Proof.Machine

/-- A pipeline register holds the fields of its slot, and nothing of a bubble (R329). -/
theorem stageFields_spec (slot : Option InFlight) : (slot = none → stageFields slot = none)
    ∧ ∀ r, slot = some r → stageFields slot = some ⟨r.record.instr.mnemonic, r.record.ctrl,
      (registerFields r.record.instr).src1, (registerFields r.record.instr).src2, (registerFields r.record.instr).dest⟩ :=
  ⟨by rintro rfl; rfl, by rintro r rfl; rfl⟩

/-- The compare branches by their instructions (R331). -/
theorem isCompareBranch_iff (i : Instr) :
    isCompareBranch i.mnemonic = true ↔ ∃ r k, i = .cbz r k ∨ i = .cbnz r k := by
  cases i <;> simp [isCompareBranch, Instr.mnemonic]

theorem stageFields_some (p : InFlight) : stageFields (some p) = some ⟨p.record.instr.mnemonic, p.record.ctrl,
    (registerFields p.record.instr).src1, (registerFields p.record.instr).src2,
    (registerFields p.record.instr).dest⟩ := rfl

/-- A compare branch has its register as first source (R330). -/
theorem src1_of_compareBranch {i : Instr} {r : Reg} {k : Nat} (h : i = .cbz r k ∨ i = .cbnz r k) :
    (registerFields i).src1 = some r := by
  rcases h with rfl | rfl <;> rfl

/-- The compare-branch hazard (R332). -/
theorem compareBranchHazard_iff (slotID slotEX slotMEM : Option InFlight) :
    compareBranchHazard (stageFields slotID) (stageFields slotEX) (stageFields slotMEM) = true
      ↔ ∃ p r k, slotID = some p ∧ (p.record.instr = .cbz r k ∨ p.record.instr = .cbnz r k)
        ∧ (ProducesIn slotEX r ∨ ProducesIn slotMEM r) := by
  cases slotID with
  | none => simp [compareBranchHazard]
  | some p =>
    simp only [stageFields_some, compareBranchHazard, Bool.and_eq_true, Bool.or_eq_true, decide_eq_true_eq,
      isCompareBranch_iff]
    constructor
    · rintro ⟨⟨⟨r, k, hi⟩, hdep⟩, hprod⟩
      obtain ⟨q, hq⟩ := Option.isSome_iff_exists.mp hdep
      obtain ⟨hsrc, _⟩ := dependence_eq_some.mp hq
      cases hsrc.symm.trans (src1_of_compareBranch hi)
      rw [hq, prodDest_eq_some, prodDest_eq_some] at hprod
      exact ⟨p, r, k, rfl, hi, hprod⟩
    · rintro ⟨_, r, k, ⟨⟩, hi, hprod⟩
      have hr : r ≠ XZR := hprod.elim (·.1) (·.1)
      have hq := dependence_eq_some.mpr ⟨src1_of_compareBranch hi, hr⟩
      rw [hq, prodDest_eq_some, prodDest_eq_some]
      exact ⟨⟨⟨r, k, hi⟩, rfl⟩, hprod⟩

/-- The flag hazard (R333). -/
theorem flagHazard_iff (slotID slotEX slotMEM : Option InFlight) :
    flagHazard (stageFields slotID) (stageFields slotEX) (stageFields slotMEM) = true
      ↔ ∃ p, slotID = some p ∧ p.record.instr.mnemonic ∈ mnemonicsCondBranch
        ∧ ∃ q, (slotEX = some q ∨ slotMEM = some q) ∧ q.record.ctrl.flagWrite = .on := by
  cases slotID with
  | none => simp [flagHazard]
  | some p =>
    simp only [stageFields_some, flagHazard, isCondBranch, Bool.and_eq_true, Bool.or_eq_true, List.contains_iff_mem,
      setsFlags_eq_true, Option.some.injEq, exists_eq_left', or_and_right, exists_or]

/-- The load-use hazard (R334). -/
theorem loadUseHazard_iff (slotID slotEX : Option InFlight) :
    loadUseHazard (stageFields slotID) (stageFields slotEX) = true
      ↔ ∃ p q r, slotID = some p ∧ slotEX = some q ∧ q.record.ctrl.memRead = .on
        ∧ r ≠ XZR ∧ (registerFields q.record.instr).dest = some r
        ∧ ((registerFields p.record.instr).src1 = some r ∨ (registerFields p.record.instr).src2 = some r) := by
  cases slotID with
  | none => cases slotEX <;> simp [loadUseHazard, stageFields_some]
  | some p =>
    cases slotEX with
    | none => simp [loadUseHazard, stageFields_some]
    | some q =>
      simp only [stageFields_some, loadUseHazard, Bool.and_eq_true, Bool.or_eq_true, decide_eq_true_eq]
      constructor
      · rintro ⟨⟨hload, hdep⟩, huse⟩
        obtain ⟨r, hr⟩ := Option.isSome_iff_exists.mp hdep
        obtain ⟨hdest, hne⟩ := dependence_eq_some.mp hr
        rw [hr] at huse
        exact ⟨p, q, r, rfl, rfl, hload, hne, hdest, huse⟩
      · rintro ⟨_, _, r, ⟨⟩, ⟨⟩, hload, hne, hdest, huse⟩
        rw [dependence_eq_some.mpr ⟨hdest, hne⟩]
        exact ⟨⟨hload, rfl⟩, huse⟩

/-- A source equals the product of a slot that has one. -/
theorem eq_prodDest_iff (src : Option Reg) (slot : Option InFlight) :
    ((prodDest (stageFields slot)).isSome ∧ src = prodDest (stageFields slot)) ↔ ∃ r, src = some r ∧ ProducesIn slot r := by
  constructor
  · rintro ⟨hsome, rfl⟩
    obtain ⟨r, hr⟩ := Option.isSome_iff_exists.mp hsome
    exact ⟨r, hr, prodDest_eq_some.mp hr⟩
  · rintro ⟨r, rfl, hr⟩
    rw [prodDest_eq_some.mpr hr]
    exact ⟨rfl, rfl⟩

/-- A producer in MEM is forwarded (R336). -/
theorem forwardOf_eq_exmem (src : Option Reg) (slotMEM slotWB : Option InFlight) :
    forwardOf src (stageFields slotMEM) (stageFields slotWB) = .exmem ↔ ∃ r, src = some r ∧ ProducesIn slotMEM r := by
  rw [← eq_prodDest_iff, forwardOf]
  split_ifs with hm hw
  · exact iff_of_true rfl hm
  · exact iff_of_false nofun hm
  · exact iff_of_false nofun hm

/-- A producer in WB is forwarded when MEM has none (R337). -/
theorem forwardOf_eq_memwb (src : Option Reg) (slotMEM slotWB : Option InFlight) :
    forwardOf src (stageFields slotMEM) (stageFields slotWB) = .memwb
      ↔ ∃ r, src = some r ∧ ProducesIn slotWB r ∧ ¬ProducesIn slotMEM r := by
  rw [forwardOf]
  split_ifs with hm hw
  · obtain ⟨r, rfl, hr⟩ := (eq_prodDest_iff ..).mp hm
    refine iff_of_false nofun ?_
    rintro ⟨_, ⟨⟩, _, hn⟩
    exact hn hr
  · obtain ⟨r, rfl, hr⟩ := (eq_prodDest_iff ..).mp hw
    exact iff_of_true rfl ⟨r, rfl, hr, fun hr' => hm ((eq_prodDest_iff ..).mpr ⟨r, rfl, hr'⟩)⟩
  · refine iff_of_false nofun ?_
    rintro ⟨r, hsrc, hr, _⟩
    exact hw ((eq_prodDest_iff ..).mpr ⟨r, hsrc, hr⟩)

/-- A diagnostic is that of one source field of the instruction in EX: with a bubble there is none (R336 R337). -/
def forwardFor (field : RegisterFields → Option Reg) (slotEX slotMEM slotWB : Option InFlight) : Forward :=
  match slotEX with
  | some p => forwardOf (field (registerFields p.record.instr)) (stageFields slotMEM) (stageFields slotWB)
  | none => .noForward

theorem forwardA_eq (slotEX slotMEM slotWB : Option InFlight) :
    forwardA (stageFields slotEX) (stageFields slotMEM) (stageFields slotWB)
      = forwardFor RegisterFields.src1 slotEX slotMEM slotWB := by
  cases slotEX <;> rfl

theorem forwardB_eq (slotEX slotMEM slotWB : Option InFlight) :
    forwardB (stageFields slotEX) (stageFields slotMEM) (stageFields slotWB)
      = forwardFor RegisterFields.src2 slotEX slotMEM slotWB := by
  cases slotEX <;> rfl

/-- What a diagnostic says of the slots. -/
theorem forwardFor_spec (field : RegisterFields → Option Reg) (slotEX slotMEM slotWB : Option InFlight) :
    (forwardFor field slotEX slotMEM slotWB = .exmem
      ↔ ∃ p r, slotEX = some p ∧ field (registerFields p.record.instr) = some r ∧ ProducesIn slotMEM r)
    ∧ (forwardFor field slotEX slotMEM slotWB = .memwb
      ↔ ∃ p r, slotEX = some p ∧ field (registerFields p.record.instr) = some r ∧ ProducesIn slotWB r
        ∧ ¬ProducesIn slotMEM r) := by
  cases slotEX with
  | none => simp [forwardFor]
  | some p =>
    simp only [forwardFor, forwardOf_eq_exmem, forwardOf_eq_memwb, Option.some.injEq, exists_and_left, exists_eq_left',
      and_self]

/-- The reason of a stall is the first detector that holds (R335). -/
theorem stallReason_spec (s : State) : (s.stallReason = some .compareBranch ↔ s.hazCB = true)
    ∧ (s.stallReason = some .flags ↔ s.hazCB = false ∧ s.hazFlag = true)
    ∧ (s.stallReason = some .loadUse ↔ s.hazCB = false ∧ s.hazFlag = false ∧ s.hazLoad = true) := by
  unfold State.stallReason
  split_ifs with hCB hFlag hLoad <;> simp [*]

end Sys2Proof.Machine
end

section
/-!
PROOFS. A register outside the three register fields of an instruction is neither read nor written by it (40_alu_flags R131,
70_reset R330). The hypotheses `some n ≠ some r` are those of `exec_writeX_of_not_field` once `registerFields` is known.
-/

namespace Sys2Proof.Machine

/-- Writes of two registers commute. -/
theorem State.writeX_comm (s : State) {d r : Reg} (h : d ≠ r) (v w : Word) :
    (s.writeX r v).writeX d w = (s.writeX d w).writeX r v := by
  by_cases hd : d = XZR
  · rw [hd, State.writeX_xzr, State.writeX_xzr]
  · by_cases hr : r = XZR
    · rw [hr, State.writeX_xzr, State.writeX_xzr]
    · have hne : (d : Nat) ≠ r := fun he => h (Fin.ext he)
      simp only [State.writeX, hd, hr, if_false]
      rw [Vector.set_comm _ _ hne]

/-- An answer with `v` in register `r` of its next state. -/
def answerWriteX (r : Reg) (v : Word) : Result → Result
  | .next t => .next (t.writeX r v)
  | .fault x => .fault x
  | .refused x => .refused x

section
variable {s : State} {r : Reg} {v : Word}

/-- A register that is in a field reads as before when one that is not has been written. -/
theorem readX_writeX_of_field {n : Reg} (h : some n ≠ some r) : (s.writeX r v).readX n = s.readX n :=
  s.readX_writeX_of_ne r n v fun he => h (congrArg some he)

theorem writeX_comm_of_field {d : Reg} (h : some d ≠ some r) (w : Word) :
    (s.writeX r v).writeX d w = (s.writeX d w).writeX r v :=
  s.writeX_comm (fun he => h (congrArg some he)) v w

theorem memRead_writeX (a : Word) (n : Nat) : (s.writeX r v).memRead a n = s.memRead a n := rfl

theorem memWrite_writeX (a : Word) (n : Nat) (w : Word) :
    (s.writeX r v).memWrite a n w = (s.memWrite a n w).map (·.writeX r v) := by
  cases h : checkRange s.params a n with
  | none => rw [State.memWrite_of_range w h, State.memWrite_of_range (s := s.writeX r v) w h]; rfl
  | some f => rw [State.memWrite_of_fault w h, State.memWrite_of_fault (s := s.writeX r v) w h]; rfl

theorem baseFault_writeX {n : Reg} (h : some n ≠ some r) : baseFault (s.writeX r v) n = baseFault s n := by
  by_cases hn : n = SP
  · subst hn
    rw [baseFault, readX_writeX_of_field h, baseFault]
  · simp [baseFault, hn]

theorem effectiveAddress_writeX {n : Reg} (h : some n ≠ some r) (off : Int) :
    effectiveAddress (s.writeX r v) n off = effectiveAddress s n off := by
  rw [effectiveAddress, readX_writeX_of_field h, effectiveAddress]

theorem writeBack_writeX {d : Reg} {w w' : Word} (hd : some d ≠ some r) (hw : w' = w) :
    writeBack d w' (s.writeX r v) = answerWriteX r v (writeBack d w s) := by
  rw [writeBack, hw, writeX_comm_of_field hd]
  rfl

theorem writeBackFlags_writeX {d : Reg} {w w' : Word} {f f' : Flags} (hd : some d ≠ some r) (hw : w' = w) (hf : f' = f) :
    writeBackFlags d w' f' (s.writeX r v) = answerWriteX r v (writeBackFlags d w f s) := by
  rw [writeBackFlags, hw, hf, writeX_comm_of_field hd]
  rfl

theorem loadRegister_writeX {t n : Reg} (ht : some t ≠ some r) (hn : some n ≠ some r) (off : Int) (size : Nat)
    (ext : Word → Word) :
    loadRegister t n off size ext (s.writeX r v) = answerWriteX r v (loadRegister t n off size ext s) := by
  unfold loadRegister
  rw [baseFault_writeX hn, effectiveAddress_writeX hn, memRead_writeX]
  cases baseFault s n with
  | some f => rfl
  | none =>
    cases s.memRead (effectiveAddress s n off) size with
    | error f => rfl
    | ok w => exact congrArg (fun u => Host.Outcome.next (State.advance u)) (writeX_comm_of_field ht _)

theorem storeRegister_writeX {t n : Reg} (ht : some t ≠ some r) (hn : some n ≠ some r) (off : Int) (size : Nat) :
    storeRegister t n off size (s.writeX r v) = answerWriteX r v (storeRegister t n off size s) := by
  unfold storeRegister
  rw [baseFault_writeX hn, effectiveAddress_writeX hn, readX_writeX_of_field ht, memWrite_writeX]
  cases baseFault s n with
  | some f => rfl
  | none => cases s.memWrite (effectiveAddress s n off) size (s.readX t) <;> rfl

theorem execLdxr_writeX {t n : Reg} (ht : some t ≠ some r) (hn : some n ≠ some r) :
    execLdxr t n (s.writeX r v) = answerWriteX r v (execLdxr t n s) := by
  unfold execLdxr
  rw [baseFault_writeX hn, readX_writeX_of_field hn, memRead_writeX]
  cases baseFault s n with
  | some f => rfl
  | none =>
    cases s.memRead (s.readX n) 8 with
    | error f => rfl
    | ok w =>
      exact congrArg (fun u => Host.Outcome.next (State.advance u))
        (writeX_comm_of_field (s := s.setMonitor (some (s.readX n))) ht w)

theorem execStxr_writeX {t st n : Reg} (ht : some t ≠ some r) (hst : some st ≠ some r) (hn : some n ≠ some r) :
    execStxr t st n (s.writeX r v) = answerWriteX r v (execStxr t st n s) := by
  have hwrite : ∀ (u : State) (w : Word), Host.Outcome.next (((u.writeX r v).writeX st w).advance)
      = answerWriteX r v (.next (u.writeX st w).advance) := fun u w =>
    congrArg (fun u => Host.Outcome.next (State.advance u)) (writeX_comm_of_field hst w)
  unfold execStxr
  rw [baseFault_writeX hn, readX_writeX_of_field hn, readX_writeX_of_field ht, memWrite_writeX, State.writeX_mon]
  cases baseFault s n with
  | some f => rfl
  | none =>
    by_cases hm : s.mon = some (s.readX n)
    · simp only [if_pos hm]
      cases s.memWrite (s.readX n) 8 (s.readX t) with
      | error f => rfl
      | ok u => exact hwrite ((u.setMonitor none).setStxrSuccess true) 0#64
    · simp only [if_neg hm]
      exact hwrite (s.setStxrSuccess false) 1#64

theorem execBr_writeX {n : Reg} (hn : some n ≠ some r) :
    execBr n (s.writeX r v) = answerWriteX r v (execBr n s) := by
  unfold execBr
  rw [readX_writeX_of_field hn, State.writeX_params]
  cases branchTargetFault s.params (s.readX n) <;> rfl

theorem branchIf_writeX {taken taken' : Bool} (target : Nat) (h : taken' = taken) :
    branchIf taken' target (s.writeX r v) = answerWriteX r v (branchIf taken target s) := by
  rw [h]
  cases taken <;> rfl

end

/-- An instruction commutes with the write of a register that is in none of its three fields. -/
theorem exec_writeX_of_not_field {i : Instr} {r : Reg} (h1 : (registerFields i).src1 ≠ some r)
    (h2 : (registerFields i).src2 ≠ some r) (hd : (registerFields i).dest ≠ some r) (s : State) (v : Word) :
    exec i (s.writeX r v) = answerWriteX r v (exec i s) := by
  cases i
  case add | sub | and | orr | eor =>
    exact writeBack_writeX hd (by rw [readX_writeX_of_field h1, readX_writeX_of_field h2])
  case addi | subi | andi | orri | eori | lsl | lsr | movk =>
    exact writeBack_writeX hd (by rw [readX_writeX_of_field h1])
  case adds | subs | ands =>
    have hn := readX_writeX_of_field (s := s) (v := v) h1
    have hm := readX_writeX_of_field (s := s) (v := v) h2
    exact writeBackFlags_writeX hd (by rw [hn, hm]) (by rw [hn, hm])
  case addis | subis | andis =>
    have hn := readX_writeX_of_field (s := s) (v := v) h1
    exact writeBackFlags_writeX hd (by rw [hn]) (by rw [hn])
  case movz => exact writeBack_writeX hd rfl
  case ldur | ldursw | ldurh | ldurb => exact loadRegister_writeX hd h1 ..
  case stur | sturw | sturh | sturb => exact storeRegister_writeX h2 h1 ..
  case ldxr => exact execLdxr_writeX hd h1
  case stxr => exact execStxr_writeX h2 hd h1
  case br => exact execBr_writeX h1
  case cbz | cbnz => exact branchIf_writeX _ (by rw [readX_writeX_of_field h1])
  case bEq | bNe | bHs | bLo | bHi | bLs | bGe | bLt | bGt | bLe | bMi | bPl | bVs | bVc =>
    exact branchIf_writeX _ rfl
  case bl target =>
    exact congrArg (fun u => Host.Outcome.next (State.jump u target)) (writeX_comm_of_field hd _)
  case b | fcmps | fcmpd => rfl

end Sys2Proof.Machine
end

section
/-!
PROOFS. The diagnostics have no influence: states that differ in them only step to such states (70_reset R331 R338 R341).
-/

namespace Sys2Proof.Machine

/-- The two states agree in all fields but the pipeline registers, the hazard flags of the detectors, the forwarding
diagnostics and the tick log. -/
structure SameButDiagnostics (s t : State) : Prop where
  frontEnd : SameFrontEnd s t
  vis : t.vis = s.vis
  buf : t.buf = s.buf
  stallNext : t.stallNext = s.stallNext
  flushNext : t.flushNext = s.flushNext
  engine : t.engine = s.engine
  compileErrors : t.compileErrors = s.compileErrors

theorem sameButDiagnostics_withDiagnostics (s : State) (fwd : Forward × Forward) (haz : Bool × Bool × Bool)
    (front back : Option StageFields × Option StageFields) (log : List TickLine) :
    SameButDiagnostics s (s.withDiagnostics fwd haz front back log) :=
  ⟨by constructor <;> rfl, rfl, rfl, rfl, rfl, rfl, rfl⟩

theorem SameFrontEnd.symm {s t : State} (h : SameFrontEnd s t) : SameFrontEnd t s :=
  ⟨h.x.symm, h.d.symm, h.flags.symm, h.idx.symm, h.mon.symm, h.branchTaken.symm, h.stxrSuccess.symm, h.err.symm,
    h.mem.symm, h.program.symm, h.params.symm⟩

theorem SameFrontEnd.pc {s t : State} (h : SameFrontEnd s t) : t.pc = s.pc := by
  simp only [State.pc, h.params, h.idx]

/-- A placeholder is made of the program, the parameters and the snapshot of the front end (R326). -/
theorem SameFrontEnd.placeholder {s t : State} (h : SameFrontEnd s t) (p : InFlight) :
    Machine.placeholder t p = Machine.placeholder s p := by
  simp only [Machine.placeholder, h.params, h.program, h.snapshot]

/-- A shift recomputes all diagnostics from the new buffer. -/
theorem SameButDiagnostics.shiftTo {s t : State} (h : SameButDiagnostics s t) (b : Buffer) :
    SameButDiagnostics (s.shiftTo b) (t.shiftTo b) :=
  ⟨(h.frontEnd.symm.shiftTo b).symm.shiftTo b, by simp only [State.shiftTo_vis, h.vis, h.buf], rfl, rfl, rfl, h.engine,
    h.compileErrors⟩

/-- No instruction reads a diagnostic. -/
theorem SameButDiagnostics.executeInstruction {s s' t : State} (h : SameButDiagnostics s s')
    (ht : Machine.executeInstruction s = .next t) :
    ∃ t', Machine.executeInstruction s' = .next t' ∧ SameButDiagnostics t t' := by
  obtain ⟨t', ht', hsame⟩ := h.frontEnd.symm.executeInstruction ht
  have hx := executeInstruction_untouched ht
  have hx' := executeInstruction_untouched ht'
  exact ⟨t', ht', hsame.symm, by rw [hx.vis, hx'.vis, h.vis], by rw [hx.buf, hx'.buf, h.buf],
    by rw [hx.stallNext, hx'.stallNext, h.stallNext], by rw [hx.flushNext, hx'.flushNext, h.flushNext],
    by rw [hx.engine, hx'.engine, h.engine], by rw [hx.compileErrors, hx'.compileErrors, h.compileErrors]⟩

/-- No shift of the buffer is decided by a diagnostic. -/
theorem SameButDiagnostics.shiftTick {s s' t : State} (h : SameButDiagnostics s s') (ht : ShiftTick s t) :
    ∃ t', ShiftTick s' t' ∧ SameButDiagnostics t t' := by
  have hf := h.frontEnd.fetched
  cases ht with
  | stall hst =>
    refine ⟨_, .stall (h.stallNext.trans hst), ?_⟩
    rw [h.buf]
    exact h.shiftTo _
  | drain hst hr =>
    refine ⟨_, .drain (h.stallNext.trans hst) (hf.trans hr), ?_⟩
    rw [h.buf]
    exact h.shiftTo _
  | placeholder r p hst hr hp hp' =>
    refine ⟨_, .placeholder r p (h.stallNext.trans hst) (hf.trans hr) (by rw [h.buf]; exact hp) hp', ?_⟩
    rw [h.buf, h.frontEnd.placeholder]
    exact h.shiftTo _
  | fetch r u hst hr hn hu hok =>
    obtain ⟨u', hu', hsame⟩ := h.executeInstruction hu
    refine ⟨_, .fetch r u' (h.stallNext.trans hst) (hf.trans hr) (by rw [h.buf]; exact hn) hu'
      (hsame.frontEnd.err.trans hok), ?_⟩
    rw [h.buf, h.flushNext, h.frontEnd.snapshot, h.frontEnd.pc, hsame.frontEnd.snapshot, hsame.frontEnd.branchTaken]
    exact hsame.shiftTo _

/-- No tick is decided by a diagnostic. -/
theorem SameButDiagnostics.clock {s s' t : State} (h : SameButDiagnostics s s') (ht : Machine.clock s = .next t) :
    ∃ t', Machine.clock s' = .next t' ∧ SameButDiagnostics t t' := by
  have he := h.frontEnd.err
  have hf := h.frontEnd.fetched
  cases tick_of_clock ht with
  | halted hbad => exact ⟨s', Tick.clock (.halted (by rwa [he])), h⟩
  | drained hok hr hb => exact ⟨s', Tick.clock (.drained (he.trans hok) (hf.trans hr) (h.buf.trans hb)), h⟩
  | fault r _ hok hst hr hn hu hbad =>
    obtain ⟨u', hu', hsame⟩ := h.executeInstruction hu
    exact ⟨u', Tick.clock (.fault r u' (he.trans hok) (h.stallNext.trans hst) (hf.trans hr) (by rw [h.buf]; exact hn) hu'
      (by rwa [hsame.frontEnd.err])), hsame⟩
  | shift _ hok hb hx =>
    obtain ⟨u', hu', hsame⟩ := h.shiftTick hx
    exact ⟨u', Tick.clock (.shift u' (he.trans hok) (by rwa [hf, h.buf]) hu'), hsame⟩

/-- No step of either engine is decided by a diagnostic. -/
theorem SameButDiagnostics.step {s s' t : State} (h : SameButDiagnostics s s') (ht : Machine.step s = .next t) :
    ∃ t', Machine.step s' = .next t' ∧ SameButDiagnostics t t' := by
  cases heng : s.engine with
  | singleCycle =>
    rw [step_singleCycle heng] at ht
    rw [step_singleCycle (h.engine.trans heng)]
    exact h.executeInstruction ht
  | pipelined =>
    rw [step_pipelined heng] at ht
    rw [step_pipelined (h.engine.trans heng)]
    exact h.clock ht

end Sys2Proof.Machine
end

section
/-!
PROOFS. What a tick that shifts does to each slot, to the visible snapshot and to the log (70_reset R323 to R328, R341).
-/

namespace Sys2Proof.Machine

/-- What a shift brings from the old buffer: the old EX and MEM move on, the record leaving WB retires, one line is logged
(R323 R328 R341). -/
structure MovesOn (s t : State) : Prop where
  slotMEM : t.buf.slotMEM = s.buf.slotEX
  slotWB : t.buf.slotWB = s.buf.slotMEM
  vis : t.vis = retire s.vis s.buf.slotWB
  tickLog : t.tickLog = s.tickLog ++ [t.buf.logLine]

/-- Every tick that shifts moves the buffer on. -/
theorem ShiftTick.movesOn {s t : State} (h : ShiftTick s t) : MovesOn s t := by
  cases h with
  | fetch r u _ _ _ hu _ =>
    have hx := executeInstruction_untouched hu
    exact ⟨rfl, rfl, by rw [State.shiftTo_vis, hx.vis, hx.buf], by rw [State.shiftTo_tickLog, hx.tickLog]; rfl⟩
  | _ => exact ⟨rfl, rfl, rfl, rfl⟩

theorem slotMnemonic_eq (slot : Option InFlight) : slotMnemonic slot = mnemonicIn slot := by cases slot <;> rfl

/-- A log line shows the mnemonics of the five slots (R341). -/
theorem Buffer.logLine_eq (b : Buffer) : b.logLine = ⟨mnemonicIn b.slotIF, mnemonicIn b.slotID, mnemonicIn b.slotEX,
    mnemonicIn b.slotMEM, mnemonicIn b.slotWB⟩ := by
  simp only [Buffer.logLine, slotMnemonic_eq]

/-- On a pending stall the shift is a stall (R325). -/
theorem ShiftTick.of_stall {s t : State} (h : ShiftTick s t) (hst : s.stallNext = true) : t = s.shiftTo s.buf.stalled := by
  cases h with
  | stall => rfl
  | drain hn | placeholder _ _ hn | fetch _ _ hn => cases hst.symm.trans hn

/-- Without one, at the end of the program, IF gets a bubble (R324). -/
theorem ShiftTick.of_ended {s t : State} (h : ShiftTick s t) (hst : s.stallNext = false) (hf : s.fetched = none) :
    t = s.shiftTo (s.buf.shiftIn none) := by
  cases h with
  | stall hn => cases hst.symm.trans hn
  | drain => rfl
  | placeholder _ _ _ hr | fetch _ _ _ hr => cases hf.symm.trans hr

/-- Behind a taken branch IF gets a placeholder (R326). -/
theorem ShiftTick.of_taken {s t : State} (h : ShiftTick s t) (hst : s.stallNext = false) {r : Record} {p : InFlight}
    (hf : s.fetched = some r) (hp : s.buf.slotIF = some p) (ht : p.taken = true) :
    t = s.shiftTo (s.buf.shiftIn (Machine.placeholder s p)) := by
  cases h with
  | stall hn => cases hst.symm.trans hn
  | drain _ hr => cases hf.symm.trans hr
  | placeholder _ q _ _ hq => cases hp.symm.trans hq; rfl
  | fetch _ _ _ _ hn => cases ht.symm.trans (hn p hp)

/-- Else the shift is a fetch (R327). -/
theorem ShiftTick.of_not_taken {s t : State} (h : ShiftTick s t) (hst : s.stallNext = false) {r : Record}
    (hf : s.fetched = some r) (hn : ∀ p, s.buf.slotIF = some p → p.taken = false) :
    t.buf = s.buf.fetchIn s.flushNext ⟨r, s.snapshot, t.snapshot, s.pc, t.branchTaken⟩ := by
  cases h with
  | stall hs => cases hst.symm.trans hs
  | drain _ hr => cases hf.symm.trans hr
  | placeholder _ q _ _ hq ht => cases ht.symm.trans (hn q hq)
  | fetch _ _ _ hr => cases hf.symm.trans hr; rfl

/-- Without a pending stall EX receives the old ID (R323). -/
theorem ShiftTick.slotEX {s t : State} (h : ShiftTick s t) (hst : s.stallNext = false) : t.buf.slotEX = s.buf.slotID := by
  cases h with
  | stall hs => cases hst.symm.trans hs
  | _ => rfl

/-- The placeholder behind the branch `p` is the record after it, or a bubble where there is none (R326). -/
theorem placeholder_spec (s : State) (p : InFlight) {k : Nat}
    (hk : k = (p.fetchPC - s.params.textBase).toNat / 4 + 1) :
    (s.program.records.length ≤ k → placeholder s p = none)
    ∧ ∀ q, s.program.records[k]? = some q → placeholder s p = some
      ⟨q, s.snapshot, s.snapshot, s.params.textBase + BitVec.ofNat 64 (4 * k), false⟩ := by
  have hindex : indexOfAddress s.params p.fetchPC + 1 = k := hk.symm
  refine ⟨fun hend => ?_, fun q hq => ?_⟩
  · simp only [placeholder, hindex, List.getElem?_eq_none hend]
  · simp only [placeholder, hindex, hq]
    rfl

/-- The visible snapshot becomes that of the record leaving WB; a bubble leaves it (R328). -/
theorem retire_spec (vis : Snapshot) (slotWB : Option InFlight) :
    (∀ o, slotWB = some o → retire vis slotWB = o.after) ∧ (slotWB = none → retire vis slotWB = vis) :=
  ⟨by rintro o rfl; rfl, by rintro rfl; rfl⟩

end Sys2Proof.Machine
end

section
/-!
PROOFS. The obligations of 60_exceptions and 70_reset_and_hazards.
-/

namespace Sys2Proof.Machine

/-- Settles O30: each engine tests the error first, and a command is refused or a call of an engine. -/
theorem aFaultHaltsTheMachineForGood : Obligations.AFaultHaltsTheMachineForGood := by
  intro s hbad
  have he : s.err.isSome = true := Option.isSome_iff_ne_none.mpr hbad
  have hhalt : s.halted = true := by simp [State.halted, he]
  have hexec := executeInstruction_of_halted hhalt
  have hclock := Tick.clock (.halted he)
  have hrun := run_of_halted hhalt
  refine ⟨hexec, hclock, hrun, fun hok => hbad hok.1, fun t fuel h => ?_⟩
  obtain ⟨hcommandExec, hcommandRun, hcommandClock⟩ := s.command_drive_cases fuel
  rw [hexec] at hcommandExec
  rw [hrun] at hcommandRun
  rw [hclock] at hcommandClock
  have still : ∀ {x : Result}, x = .next s ∨ x = .refused .mixedEngines → x = .next t → t.err = s.err := by
    rintro x (rfl | rfl) ⟨⟩
    rfl
  rcases h with h | h | h
  exacts [still hcommandExec h, still hcommandRun h, still hcommandClock h]

/-- Settles O22: a fault is one of the eleven effects of an instruction, and the only one that touches the error. -/
theorem aFaultingInstructionChangesOnlyTheError : Obligations.AFaultingInstructionChangesOnlyTheError := by
  refine ⟨fun i s t he h hbad => ?_, fun s r hr => currentLine_of_record hr⟩
  obtain ⟨hc, f, hf⟩ := (exec_inversion h).fault_of_err he hbad
  exact ⟨hc, f, hf, fun r hr => by rw [hf, ← currentLine_of_record hr]⟩

/-- Settles O36: every instruction commutes with the write. -/
theorem aRegisterInNoFieldHasNoInfluence : Obligations.ARegisterInNoFieldHasNoInfluence := by
  intro i s t r v h1 h2 hd h
  rw [exec_writeX_of_not_field h1 h2 hd, h]
  rfl

/-- Settles O50: the invariant is kept by each of the six ways a tick can go. -/
theorem everyTickKeepsThePipelineInvariant : Obligations.EveryTickKeepsThePipelineInvariant :=
  fun _ _ hinv h => hinv.clock h

/-- Settles O52: a tick does nothing, takes a fault, or shifts. -/
theorem aTickExecutesAtMostOneInstruction : Obligations.ATickExecutesAtMostOneInstruction := by
  intro s t h
  cases tick_of_clock h with
  | halted | drained => exact ⟨.inl (.refl s), fun he hbad => absurd he hbad⟩
  | fault _ _ _ _ _ _ hu => exact ⟨.inr ⟨t, hu, .refl t⟩, executeInstruction_faultEntry hu⟩
  | shift _ _ _ hx => exact ⟨hx.frontEnd, fun he hbad => absurd (hx.err he) hbad⟩

/-- Settles O53: two stalls leave bubbles in EX and MEM, and a stall needs a record in one of them. -/
theorem stallsLastAtMostTwoTicks : Obligations.StallsLastAtMostTwoTicks := by
  intro s t u hregs he hst ht hst' hu
  cases (hregs.clock_of_stall he hst).symm.trans ht
  have hregs' : PipeRegs (s.shiftTo s.buf.stalled) := .shiftTo _ _
  cases (hregs'.clock_of_stall he hst').symm.trans hu
  by_contra hst''
  have hocc := (PipeRegs.shiftTo _ _).stall_occupied (Bool.eq_true_of_not_eq_false hst'')
  simp [Buffer.stalled] at hocc

/-- Settles O54: the bound on the drain is at most nine. -/
theorem theDrainEndsWithTheFrontEndVisible : Obligations.TheDrainEndsWithTheFrontEndVisible := by
  intro s hinv heng he hend
  exact hinv.drains heng he (fetched_eq_none_iff.mpr hend) s.buf.drainBound_le

/-- Settles O55: agreement in all but the diagnostics is kept by a step. -/
theorem diagnosticsInfluenceNothing : Obligations.DiagnosticsInfluenceNothing := by
  intro s t fwd haz front back log h
  obtain ⟨t', ht', hsame⟩ := (sameButDiagnostics_withDiagnostics s fwd haz front back log).step h
  exact ⟨t', ht', hsame.frontEnd, hsame.vis, hsame.buf, hsame.stallNext, hsame.flushNext, hsame.engine,
    hsame.compileErrors⟩

/-- Settles O51: the tick is one of the four shifts, which one is decided in the spec's order. -/
theorem aTickMovesTheBufferAsTheSpecWrites : Obligations.ATickMovesTheBufferAsTheSpecWrites := by
  intro s t he h hok hb
  have hx := shiftTick_of_clock he h hok hb
  obtain ⟨hMEM, hWB, hvis, hlog⟩ := hx.movesOn
  have hkeeps : ∀ b, SameFrontEnd s (s.shiftTo b) := (SameFrontEnd.refl s).shiftTo
  rw [hvis, hlog, Buffer.logLine_eq]
  refine ⟨hMEM, hWB, fun hst => ?stall, fun hst => ⟨hx.slotEX hst, fun hf => ?ended, fun r p hf hp ht => ?taken,
    fun r hf hn => ?fetch⟩, (retire_spec ..).1, (retire_spec ..).2, rfl⟩
  case stall =>
    cases hx.of_stall hst
    exact ⟨rfl, rfl, rfl, hkeeps _⟩
  case ended =>
    cases hx.of_ended hst hf
    exact ⟨rfl, rfl, hkeeps _⟩
  case taken =>
    cases hx.of_taken hst hf hp ht
    exact ⟨rfl, hkeeps _, fun k hk => placeholder_spec s p hk⟩
  case fetch =>
    rw [hx.of_not_taken hst hf hn]
    exact ⟨rfl, rfl⟩

/-- Settles O60: after a shift the registers and detectors are those of the new buffer, and each detector is a statement
about its slots. -/
theorem hazardDetectorsFollowTheShiftedBuffer : Obligations.HazardDetectorsFollowTheShiftedBuffer := by
  intro s t he h hok hb
  obtain ⟨hifid, hidex, hexmem, hmemwb, hCB, hFlag, hLoad, hstall, hflush, hA, hB⟩ :=
    (shiftTick_of_clock he h hok hb).pipeRegs
  obtain ⟨hreasonCB, hreasonFlag, hreasonLoad⟩ := stallReason_spec t
  rw [hifid, hidex, hexmem] at hCB hFlag
  rw [hifid, hidex] at hLoad
  rw [hidex, hexmem, hmemwb, forwardA_eq] at hA
  rw [hidex, hexmem, hmemwb, forwardB_eq] at hB
  refine ⟨?registers, ?_, ?_, ?_, ?_, hreasonCB, hreasonFlag, hreasonLoad, ?_, ?diagnostics⟩
  case registers =>
    simp only [List.forall_mem_cons, List.not_mem_nil, false_implies, implies_true, and_true, hifid, hidex, hexmem, hmemwb]
    exact ⟨stageFields_spec _, stageFields_spec _, stageFields_spec _, stageFields_spec _⟩
  case diagnostics =>
    simp only [List.forall_mem_cons, List.not_mem_nil, false_implies, implies_true, and_true, hA, hB]
    exact ⟨forwardFor_spec .., forwardFor_spec ..⟩
  · rw [hCB]; exact compareBranchHazard_iff ..
  · rw [hFlag]; exact flagHazard_iff ..
  · rw [hLoad]; exact loadUseHazard_iff ..
  · rw [hstall, Bool.or_eq_true, Bool.or_eq_true, or_assoc]
  · rw [hflush]; exact controlHazard_eq_true

end Sys2Proof.Machine
end
